-- ==== Sys2Proof/Word.lean ====
section
/-! DEFINITION. The words the ports carry: widths and bit numbering of 00_scope.md R7, R8 and R9.
Every bit is 0 or 1 (70_reset_and_hazards.md R118, log 10). -/

namespace Sys2Proof

/-- `XLEN` of R7: the one width of every operand and result. -/
abbrev xlen : Nat := 32

/-- `OPW` of R8: the width of the operation-select port. -/
abbrev opw : Nat := 4

/-- `NOPS` of R8: the number of defined operation codes. -/
abbrev nops : Nat := 15

/-- A word: bit 31 is the most significant, bit 0 the least (R9). -/
abbrev Word := BitVec 32

/-- An operation code, the field `code` of the one format OPSEL (30_encoding.md R42). -/
abbrev Code := BitVec 4

end Sys2Proof
end

