-- ==== Sys2Proof/Syntax.lean ====
section
/-! DEFINITION. The operations a code selects: one constructor per row of spec/opcode_table.json
(30_encoding.md R44, R45). There is no instruction field beside the code, so no constructor carries an
operand: the operands are the words on the ports `a` and `b` (R42, R43). -/

namespace Sys2Proof

/-- The fifteen operations of 00_scope.md R2 in the order of R44, and the reserved code of R45. -/
inductive Instr where
  | bitAnd
  | getByte
  | logicalShift
  | bitCount
  | bang
  | tmin
  | fitsBits
  | divpwr2
  | negate
  | isPositive
  | isLessOrEqual
  | ilog2
  | floatNeg
  | floatI2f
  | floatTwice
  | reserved
deriving DecidableEq, Repr

/-- Every constructor once, in the order of the codes. -/
def Instr.all : List Instr :=
  [.bitAnd, .getByte, .logicalShift, .bitCount, .bang, .tmin, .fitsBits, .divpwr2,
   .negate, .isPositive, .isLessOrEqual, .ilog2, .floatNeg, .floatI2f, .floatTwice, .reserved]

end Sys2Proof
end

