-- ==== Sys2Proof/WellFormed.lean ====
section
/-! DEFINITION. Which instructions a host may present. -/

namespace Sys2Proof

/-- The one check there is: the code selects an operation. "A host must not present code 0xF"
(30_encoding.md R45; DESIGN CHOICE log 14, safe). No operand field exists that could be ill-formed (R43). -/
def wellFormed : Instr → Bool
  | .reserved => false
  | .bitAnd | .getByte | .logicalShift | .bitCount | .bang | .tmin | .fitsBits | .divpwr2 => true
  | .negate | .isPositive | .isLessOrEqual | .ilog2 | .floatNeg | .floatI2f | .floatTwice => true

end Sys2Proof
end

