-- ==== Sys2Proof/Decode.lean ====
section
/-! DEFINITION. The operation map of 30_encoding.md R44, read (R49) and written. -/

namespace Sys2Proof

/-- Decoding: total on the sixteen codes, and a function of the code alone (R44, R45, R49). -/
def decode (code : Code) : Instr :=
  match code.toNat with
  | 0x0 => .bitAnd
  | 0x1 => .getByte
  | 0x2 => .logicalShift
  | 0x3 => .bitCount
  | 0x4 => .bang
  | 0x5 => .tmin
  | 0x6 => .fitsBits
  | 0x7 => .divpwr2
  | 0x8 => .negate
  | 0x9 => .isPositive
  | 0xA => .isLessOrEqual
  | 0xB => .ilog2
  | 0xC => .floatNeg
  | 0xD => .floatI2f
  | 0xE => .floatTwice
  | _ => .reserved

/-- Why a number of the opcode table's numbering is no instruction. -/
inductive DecodeError where
  /-- The number needs a fifth bit, and the `op` port has four wires (R42; DESIGN CHOICE log 15, safe). -/
  | notACode
deriving DecidableEq, Repr

/-- The instruction a number stands for, bit 0 of the number being `op[0]`; rejected by name where the
number is wider than the port. -/
def decodeNumber (w : Nat) : Except DecodeError Instr :=
  if w < 2 ^ opw then .ok (decode (BitVec.ofNat 4 w)) else .error .notACode

/-- The same for the host's tick-off of spec/opcode_table.json: the code is all the instruction there
is (R42), so the number of bits the table gives it adds nothing. -/
def decodeTableWord (_nbits w : Nat) : Option Instr :=
  match decodeNumber w with
  | .ok i => some i
  | .error _ => none

/-- The encoder, written from the table of R44 (and R45 for the reserved code). -/
def encode : Instr → Code
  | .bitAnd => 0b0000#4
  | .getByte => 0b0001#4
  | .logicalShift => 0b0010#4
  | .bitCount => 0b0011#4
  | .bang => 0b0100#4
  | .tmin => 0b0101#4
  | .fitsBits => 0b0110#4
  | .divpwr2 => 0b0111#4
  | .negate => 0b1000#4
  | .isPositive => 0b1001#4
  | .isLessOrEqual => 0b1010#4
  | .ilog2 => 0b1011#4
  | .floatNeg => 0b1100#4
  | .floatI2f => 0b1101#4
  | .floatTwice => 0b1110#4
  | .reserved => 0b1111#4

/-! Every constructor's decoding, the code written out from the binary column of R44. -/

theorem decode_bitAnd : decode 0b0000#4 = .bitAnd := rfl
theorem decode_getByte : decode 0b0001#4 = .getByte := rfl
theorem decode_logicalShift : decode 0b0010#4 = .logicalShift := rfl
theorem decode_bitCount : decode 0b0011#4 = .bitCount := rfl
theorem decode_bang : decode 0b0100#4 = .bang := rfl
theorem decode_tmin : decode 0b0101#4 = .tmin := rfl
theorem decode_fitsBits : decode 0b0110#4 = .fitsBits := rfl
theorem decode_divpwr2 : decode 0b0111#4 = .divpwr2 := rfl
theorem decode_negate : decode 0b1000#4 = .negate := rfl
theorem decode_isPositive : decode 0b1001#4 = .isPositive := rfl
theorem decode_isLessOrEqual : decode 0b1010#4 = .isLessOrEqual := rfl
theorem decode_ilog2 : decode 0b1011#4 = .ilog2 := rfl
theorem decode_floatNeg : decode 0b1100#4 = .floatNeg := rfl
theorem decode_floatI2f : decode 0b1101#4 = .floatI2f := rfl
theorem decode_floatTwice : decode 0b1110#4 = .floatTwice := rfl
theorem decode_reserved : decode 0b1111#4 = .reserved := rfl

end Sys2Proof
end

