-- ==== Sys2Proof/Machine/Bits.lean ====
section
/-! DEFINITION. The notation the rules are written in: 00_scope.md R9 to R16, and the byte numbering of
20_memory.md R33. `~`, `&`, `|`, `^` (R11) and wrapping `+` (R12) are `BitVec`'s own. -/

namespace Sys2Proof.Machine

/-- The unsigned reading of a word (R10). -/
def unsigned (v : Word) : Nat := v.toNat

/-- The two's-complement reading of a word (R10): less 2^32 where bit 31 is set. -/
def signed (v : Word) : Int :=
  if v.getLsbD 31 then (unsigned v : Int) - 2 ^ 32 else (unsigned v : Int)

/-- `word(k)`: the word whose unsigned reading is k mod 2^32 (R10). -/
def word (k : Int) : Word := BitVec.ofNat 32 (k % 2 ^ 32).toNat

/-- `bool(c)`: the word 1 or the word 0 (R16). -/
def boolWord (c : Bool) : Word := if c then 1#32 else 0#32

/-- Whether a word is a legal shift amount: its signed reading is in 0 to 31 (R15). -/
def shiftable (s : Word) : Bool := decide (0 ≤ signed s) && decide (signed s ≤ 31)

/-- `v << s` (R13), with no value for an amount outside 0 to 31 (R15; DESIGN CHOICE log 7, safe). -/
def shlWord (v s : Word) : Option Word :=
  if shiftable s then some (word ((unsigned v : Int) * 2 ^ unsigned s)) else none

/-- `v >>a s` (R14): the floor of the signed reading over 2^s, with no value for an amount outside
0 to 31 (R15; DESIGN CHOICE log 7, safe). The divisor is positive, so `/` is the floor. -/
def sarWord (v s : Word) : Option Word :=
  if shiftable s then some (word (signed v / 2 ^ unsigned s)) else none

/-- Byte n of a word, `v[8n+7:8n]`, byte 0 being the least significant (R33). -/
def byteOf (v : Word) (n : Nat) : BitVec 8 := v.extractLsb' (8 * n) 8

/-- The sum of the bits of a word. -/
def bitSum (v : Word) : Nat := ((List.range 32).map fun i => (v.getLsbD i).toNat).sum

/-- The index of the highest 1 bit of a number among its low n bits (0 where there is none). -/
def highestBitBelow (m : Nat) : Nat → Nat
  | 0 => 0
  | n + 1 => if m.testBit n then n else highestBitBelow m n

/-- The index of the highest 1 bit of a positive number of at most 32 bits (R80, R95). -/
def highestBit (m : Nat) : Nat := highestBitBelow m 32

/-- Round to nearest, ties to even, dropping the k low bits of q (41_float_family.md R94). -/
def roundNearestEven (q k : Nat) : Nat :=
  if k = 0 then q
  else
    let kept := q / 2 ^ k
    let dropped := q % 2 ^ k
    let half := 2 ^ (k - 1)
    if half < dropped ∨ (dropped = half ∧ kept % 2 = 1) then kept + 1 else kept

end Sys2Proof.Machine
end

