-- ==== Sys2Proof/Config.lean ====
section
/-! DEFINITION. What is fixed when the block is built (00_scope.md R8; 10_state.md R25 says it is no
register), and the one free value of the model. -/

namespace Sys2Proof

/-- `TWICE_FE` of R8: the result of `float_twice` at exponent field 0xFE (R97, 90_conflicts.md C1). -/
inductive TwiceFe where
  | infinity
  | carry
deriving DecidableEq, Repr

/-- `UNSPEC` of R8: how a transaction with the result `Unspecified` is treated (R17). -/
inductive Unspec where
  | draw
  | refuse
deriving DecidableEq, Repr

/-- The parameters an implementation fixes. -/
structure Config where
  twiceFe : TwiceFe
  unspec : Unspec
deriving DecidableEq, Repr

/-- The defaults of R8: `TWICE_FE = infinity`, `UNSPEC = draw`. -/
def Config.default : Config := { twiceFe := .infinity, unspec := .draw }

/-- DESIGN CHOICE (log 4), safe within one run. The free words: the word the block drives where no rule
says which (R17, R45, R117). It has no body, so nothing can be proved of any of its values. -/
opaque Config.freeWord : Nat → Word

end Sys2Proof
end

