-- ==== Sys2Proof/Machine/State.lean ====
section
/-! DEFINITION. The machine's state. The block's own state is the empty record (10_state.md R20): no register,
flag, program counter, memory or queue is held, because R21 to R29 deny every one of them. Beside it stand
what a step needs and no step of the block keeps: the words on the four ports (R22; log 1), and the place in
the sequence of free words (log 4). -/

namespace Sys2Proof.Machine

/-- The block's own state: "the empty record (the unit type)" (R20, R31). -/
structure BlockState where
deriving DecidableEq, Repr

/-- The block's own state, the words on the ports of R22, and the model's own counter of free words. -/
structure State where
  /-- What the block holds between uses: nothing (R20). -/
  block : BlockState
  /-- Input port `op[3:0]`: the operation code. -/
  op : Code
  /-- Input port `a[31:0]`: the first argument, `x` or `uf`. -/
  a : Word
  /-- Input port `b[31:0]`: the second argument, `y` or `n`. -/
  b : Word
  /-- Output port `r[31:0]`: the result word. -/
  r : Word
  /-- DESIGN CHOICE (log 4), the model's own: how many free words have been taken. -/
  draws : Nat
deriving DecidableEq, Repr

/-- The reasons a step can fault: none. "The set is empty" (60_exceptions.md R102; log 16). -/
inductive Fault where
deriving DecidableEq, Repr

/-- The reasons a step can be refused. -/
inductive Refusal where
  /-- Raised by an arm of `exec` whose instruction has no meaning yet; safe. No arm raises it. -/
  | notModelled (mnemonic : String)
  /-- Raised by `respond` for a transaction whose result is `Unspecified`, in a block built with
  `UNSPEC = refuse` (R17, R45); safe. The machine's own configuration is `draw`, so no step raises it. -/
  | unspecifiedResult
deriving DecidableEq, Repr

/-- There is nothing to reset (R31, 70_reset_and_hazards.md R114). The port words are the model's choice
(DESIGN CHOICE log 3, unsafe): all zero, which is the transaction `bitAnd(0,0)` with its result. -/
def State.reset : State :=
  { block := {}, op := 0#4, a := 0#32, b := 0#32, r := 0#32, draws := 0 }

end Sys2Proof.Machine
end

