-- ==== Sys2Proof/Machine/Ops.lean ====
section
/-! DEFINITION. The operations on the ports: presenting a transaction, and answering one. There is no
exception to take and none to return from (60_exceptions.md R102, R106, R107), and no memory (R32). -/

namespace Sys2Proof.Machine

/-- The meaning of one use of the block (00_scope.md R17). -/
inductive Result where
  /-- The output port carries this word. -/
  | val (w : Word)
  /-- Outside the operation's domain, or the reserved code: some word, no rule says which. -/
  | unspecified
deriving DecidableEq, Repr

/-- The parameters this machine is built with: the defaults of R8 (DESIGN CHOICE log 5, safe, and log 6,
unsafe for `TWICE_FE`). -/
def config : Config := Config.default

/-- The host puts a transaction on the input ports (R22, R50). Until it is evaluated the output has not
settled and may carry any word (70_reset_and_hazards.md R117; DESIGN CHOICE log 8, safe). -/
def State.drive (s : State) (op : Code) (a b : Word) : State :=
  { s with op := op, a := a, b := b, r := Config.freeWord s.draws, draws := s.draws + 1 }

/-- The output port carries a word the rules give. -/
def State.setResult (s : State) (w : Word) : State := { s with r := w }

/-- The output port carries a word no rule gives: a fresh free one (R17; DESIGN CHOICE log 4). -/
def State.takeDraw (s : State) : State :=
  { s with r := Config.freeWord s.draws, draws := s.draws + 1 }

/-- The block answers: the word on `r`, "either way nothing else changes" (R17). An `Unspecified` result
is a free word or a refusal as `UNSPEC` says (R8). -/
def respond (cfg : Config) (res : Result) (s : State) : Host.Outcome State Fault Refusal :=
  match res with
  | .val w => .next (s.setResult w)
  | .unspecified =>
    match cfg.unspec with
    | .draw => .next s.takeDraw
    | .refuse => .refused .unspecifiedResult

end Sys2Proof.Machine
end

