-- ==== Sys2Proof/Machine/Operands.lean ====
section
/-! DEFINITION. Operand roles and domains: families and mnemonics (30_encoding.md R44, R52), the reading of
each port (R47, R48), the domains (40_integer_family.md R56, 41_float_family.md R91), and the shared shape
of every meaning (R50). -/

namespace Sys2Proof.Machine

/-- The two families of 00_scope.md R2, and neither for the reserved code. -/
inductive Family where
  | integer
  | float
  | none
deriving DecidableEq, Repr

/-- The family column of R44. -/
def familyOf : Instr → Family
  | .bitAnd | .getByte | .logicalShift | .bitCount | .bang | .tmin | .fitsBits | .divpwr2 => .integer
  | .negate | .isPositive | .isLessOrEqual | .ilog2 => .integer
  | .floatNeg | .floatI2f | .floatTwice => .float
  | .reserved => .none

/-- The mnemonic column of R44, spelled as the source spells it (R52). -/
def mnemonicOf : Instr → String
  | .bitAnd => "bitAnd"
  | .getByte => "getByte"
  | .logicalShift => "logicalShift"
  | .bitCount => "bitCount"
  | .bang => "bang"
  | .tmin => "tmin"
  | .fitsBits => "fitsBits"
  | .divpwr2 => "divpwr2"
  | .negate => "negate"
  | .isPositive => "isPositive"
  | .isLessOrEqual => "isLessOrEqual"
  | .ilog2 => "ilog2"
  | .floatNeg => "float_neg"
  | .floatI2f => "float_i2f"
  | .floatTwice => "float_twice"
  | .reserved => "(reserved)"

/-- How a port's word is read (R47). -/
inductive Reading where
  /-- A signed word. -/
  | word
  /-- A word whose signed reading must lie in lo to hi. -/
  | count (lo hi : Int)
  /-- A signed word that must be greater than zero. -/
  | positiveWord
  /-- An IEEE-754 single-precision bit pattern. -/
  | pattern
  /-- The result does not depend on the port (R48). -/
  | ignored
deriving DecidableEq, Repr

/-- The `a` column of R47, with the domain R56 puts on it. -/
def readingOfA : Instr → Reading
  | .bitAnd | .getByte | .logicalShift | .bitCount | .bang | .fitsBits | .divpwr2 => .word
  | .negate | .isPositive | .isLessOrEqual | .floatI2f => .word
  | .ilog2 => .positiveWord
  | .floatNeg | .floatTwice => .pattern
  | .tmin | .reserved => .ignored

/-- The `b` column of R47, with the domain R56 puts on it. -/
def readingOfB : Instr → Reading
  | .bitAnd | .isLessOrEqual => .word
  | .getByte => .count 0 3
  | .logicalShift => .count 0 31
  | .fitsBits => .count 1 32
  | .divpwr2 => .count 0 30
  | .bitCount | .bang | .tmin | .negate | .isPositive | .ilog2 => .ignored
  | .floatNeg | .floatI2f | .floatTwice | .reserved => .ignored

/-- Whether a word on a port meets the reading's condition. -/
def Reading.admits (v : Word) : Reading → Bool
  | .word | .pattern | .ignored => true
  | .count lo hi => decide (lo ≤ signed v) && decide (signed v ≤ hi)
  | .positiveWord => decide (0 < signed v)

/-- The domain of an operation as a condition on the port words (R56, R91). The reserved code has none
(R45). -/
def inDomain (i : Instr) (a b : Word) : Bool :=
  wellFormed i && (readingOfA i).admits a && (readingOfB i).admits b

/-- How many arguments the source's function has (R44); the first stands on `a`, the second on `b` (R43). -/
def argumentCount (i : Instr) : Nat :=
  (if readingOfA i = .ignored then 0 else 1) + (if readingOfB i = .ignored then 0 else 1)

/-- What a result word can be (the `r` column of R47). -/
inductive ResultReading where
  | word
  /-- A word whose signed reading lies in 0 to hi. -/
  | upTo (hi : Int)
  /-- One of the words 1 and 0 (R55). -/
  | zeroOne
  /-- This word always. -/
  | always (w : Word)
  | pattern
deriving DecidableEq, Repr

/-- The `r` column of R47. -/
def readingOfResult : Instr → ResultReading
  | .bitAnd | .logicalShift | .divpwr2 | .negate | .reserved => .word
  | .getByte => .upTo 255
  | .bitCount => .upTo 32
  | .ilog2 => .upTo 30
  | .bang | .fitsBits | .isPositive | .isLessOrEqual => .zeroOne
  | .tmin => .always 0x80000000#32
  | .floatNeg | .floatI2f | .floatTwice => .pattern

/-- Whether a result word is what the column says. -/
def ResultReading.admits (w : Word) : ResultReading → Bool
  | .word | .pattern => true
  | .upTo hi => decide (0 ≤ signed w) && decide (signed w ≤ hi)
  | .zeroOne => w == 1#32 || w == 0#32
  | .always v => w == v

/-- A count operand as a number; meant for words inside the domain, whose signed reading is not negative. -/
def countOf (n : Word) : Nat := (signed n).toNat

/-- The shape of R50 shared by every meaning: inside the domain the operation's word is the result,
outside it the result is `Unspecified`. -/
def perform (i : Instr) (value : Word) (s : State) : Host.Outcome State Fault Refusal :=
  respond config (if inDomain i s.a s.b then .val value else .unspecified) s

end Sys2Proof.Machine
end

