-- ==== Sys2Proof/Machine/Pattern.lean ====
section
/-! DEFINITION. The IEEE-754 single-precision bit pattern: fields, classes and values (41_float_family.md
R86 to R88). There is no float type: a pattern is a word. -/

namespace Sys2Proof.Machine

/-- `sign(u) = u[31]` (R86). -/
def signOf (u : Word) : Bool := u.getLsbD 31

/-- `exp(u) = u[30:23]` (R86). -/
def expOf (u : Word) : Nat := (u.extractLsb' 23 8).toNat

/-- `man(u) = u[22:0]` (R86). -/
def manOf (u : Word) : Nat := (u.extractLsb' 0 23).toNat

/-- The five classes of R87. -/
inductive PatternClass where
  | zero
  | denormalized
  | normalized
  | infinity
  | nan
deriving DecidableEq, Repr

/-- The class of a pattern, decided by the exponent field and the mantissa (R87). -/
def classOf (u : Word) : PatternClass :=
  if expOf u = 0 then (if manOf u = 0 then .zero else .denormalized)
  else if expOf u = 0xFF then (if manOf u = 0 then .infinity else .nan)
  else .normalized

/-- What a pattern stands for (R88). -/
inductive PatternValue where
  | finite (q : ℚ)
  | infinity (negative : Bool)
  | none
deriving DecidableEq, Repr

/-- (−1)^sign as a rational. -/
def signFactor (u : Word) : ℚ := if signOf u then -1 else 1

/-- `val(u)` (R88). The formulas of the classes other than normalized are general knowledge
(PRESUMED log 13, unsafe for the statements that name them); no result word depends on them. -/
def patternValue (u : Word) : PatternValue :=
  match classOf u with
  | .zero | .denormalized => .finite (signFactor u * ((manOf u : ℚ) / 2 ^ 23) * (2 : ℚ) ^ (-126 : Int))
  | .normalized => .finite (signFactor u * (1 + (manOf u : ℚ) / 2 ^ 23) * (2 : ℚ) ^ ((expOf u : Int) - 127))
  | .infinity => .infinity (signOf u)
  | .nan => .none

end Sys2Proof.Machine
end

