-- ==== Sys2Proof/Machine/Float.lean ====
section
/-! DEFINITION. The floating-point bit-pattern family: the functional results of 41_float_family.md and
the meaning of each of its three operations. Every word is in the domain (R91), nothing is flagged and no
rounding mode exists (R90). -/

namespace Sys2Proof.Machine

/-- R92: bit 31 inverted, a NaN pattern unchanged. -/
def floatNegValue (u : Word) : Word :=
  if classOf u = .nan then u else u ^^^ 0x80000000#32

/-- The 24-bit significand of R95: exact up to 2^23, else rounded by R94. -/
def significand (m p : Nat) : Nat :=
  if p ≤ 23 then m * 2 ^ (23 - p) else roundNearestEven m (p - 23)

/-- R95: the nearest pattern to a signed integer, ties to even. The magnitude of the minimum word is
2^31, taken as a mathematical integer. -/
def floatI2fValue (x : Word) : Word :=
  if signed x = 0 then 0#32
  else
    let s := if signed x < 0 then 1 else 0
    let m := (signed x).natAbs
    let p := highestBit m
    word (s * 2 ^ 31 + (127 + p) * 2 ^ 23 + ((significand m p : Int) - 2 ^ 23))

/-- R97: the pattern of 2f by the exponent field of f; `TWICE_FE` decides the field 0xFE. -/
def floatTwiceValue (fe : TwiceFe) (u : Word) : Word :=
  if expOf u = 0x00 then (u &&& 0x80000000#32) ||| word (2 * (unsigned (u &&& 0x007FFFFF#32) : Int))
  else if expOf u = 0xFF then u
  else if expOf u = 0xFE then
    match fe with
    | .infinity => (u &&& 0x80000000#32) ||| 0x7F800000#32
    | .carry => u + 0x00800000#32
  else u + 0x00800000#32

/-- `float_neg(uf)`, code 0xC (R92). -/
def execFloatNeg (s : State) : Host.Outcome State Fault Refusal :=
  perform .floatNeg (floatNegValue s.a) s

/-- `float_i2f(x)`, code 0xD (R95). -/
def execFloatI2f (s : State) : Host.Outcome State Fault Refusal :=
  perform .floatI2f (floatI2fValue s.a) s

/-- `float_twice(uf)`, code 0xE (R97). -/
def execFloatTwice (s : State) : Host.Outcome State Fault Refusal :=
  perform .floatTwice (floatTwiceValue config.twiceFe s.a) s

end Sys2Proof.Machine
end

