-- ==== Sys2Proof/Machine/Flags.lean ====
section
/-! DEFINITION. There are no flags: no operation writes or reads one (10_state.md R24), addition leaves no
carry or overflow record (00_scope.md R12), and the float operations raise none (41_float_family.md R90).
What other machines answer in a flag, the four predicates answer as the word 1 or 0 (40_integer_family.md
R55); the conditions they answer are here. -/

namespace Sys2Proof.Machine

/-- The condition of `bang` (R66). -/
def isZeroWord (x : Word) : Bool := x == 0#32

/-- The condition of `fitsBits` (R70): −2^(n−1) ≤ signed(x) ≤ 2^(n−1) − 1. -/
def fitsIn (x : Word) (n : Nat) : Bool :=
  decide (-(2 ^ (n - 1) : Int) ≤ signed x) && decide (signed x ≤ 2 ^ (n - 1) - 1)

/-- The condition of `isPositive` (R76). -/
def isPositiveWord (x : Word) : Bool := decide (0 < signed x)

/-- The condition of `isLessOrEqual` (R78). -/
def isAtMost (x y : Word) : Bool := decide (signed x ≤ signed y)

end Sys2Proof.Machine
end

