-- ==== Sys2Proof/Machine/Integer.lean ====
section
/-! DEFINITION. The integer bit-trick family: the functional results of 40_integer_family.md and the
meaning of each of its twelve operations. A result function is meant for operands inside the domain;
`perform` answers `Unspecified` outside it. -/

namespace Sys2Proof.Machine

/-- R58: bitwise AND. -/
def bitAndValue (x y : Word) : Word := x &&& y

/-- R60: byte n of x, zero extended. -/
def getByteValue (x n : Word) : Word := (byteOf x (countOf n)).setWidth 32

/-- R62: the floor of the unsigned reading over 2^n. -/
def logicalShiftValue (x n : Word) : Word := word ((unsigned x : Int) / 2 ^ countOf n)

/-- R64: the number of 1 bits. -/
def bitCountValue (x : Word) : Word := word (bitSum x)

/-- R66: logical NOT. -/
def bangValue (x : Word) : Word := boolWord (isZeroWord x)

/-- R68: the minimum word. -/
def tminValue : Word := 0x80000000#32

/-- R70: whether x fits in n bits. -/
def fitsBitsValue (x n : Word) : Word := boolWord (fitsIn x (countOf n))

/-- R72: x over 2^n, rounded toward zero: by the floor of the magnitude. -/
def divpwr2Value (x n : Word) : Word :=
  word (if 0 ≤ signed x then signed x / 2 ^ countOf n else -(-signed x / 2 ^ countOf n))

/-- R74: two's-complement negation. -/
def negateValue (x : Word) : Word := word (-signed x)

/-- R76: strictly positive. -/
def isPositiveValue (x : Word) : Word := boolWord (isPositiveWord x)

/-- R78: signed less than or equal. -/
def isLessOrEqualValue (x y : Word) : Word := boolWord (isAtMost x y)

/-- R80: the index of the highest 1 bit. -/
def ilog2Value (x : Word) : Word := word (highestBit (unsigned x))

/-- `bitAnd(x,y)`, code 0x0 (R58). -/
def execBitAnd (s : State) : Host.Outcome State Fault Refusal :=
  perform .bitAnd (bitAndValue s.a s.b) s

/-- `getByte(x,n)`, code 0x1 (R60). -/
def execGetByte (s : State) : Host.Outcome State Fault Refusal :=
  perform .getByte (getByteValue s.a s.b) s

/-- `logicalShift(x,n)`, code 0x2 (R62). -/
def execLogicalShift (s : State) : Host.Outcome State Fault Refusal :=
  perform .logicalShift (logicalShiftValue s.a s.b) s

/-- `bitCount(x)`, code 0x3 (R64). -/
def execBitCount (s : State) : Host.Outcome State Fault Refusal :=
  perform .bitCount (bitCountValue s.a) s

/-- `bang(x)`, code 0x4 (R66). -/
def execBang (s : State) : Host.Outcome State Fault Refusal :=
  perform .bang (bangValue s.a) s

/-- `tmin()`, code 0x5 (R68). -/
def execTmin (s : State) : Host.Outcome State Fault Refusal :=
  perform .tmin tminValue s

/-- `fitsBits(x,n)`, code 0x6 (R70). -/
def execFitsBits (s : State) : Host.Outcome State Fault Refusal :=
  perform .fitsBits (fitsBitsValue s.a s.b) s

/-- `divpwr2(x,n)`, code 0x7 (R72). -/
def execDivpwr2 (s : State) : Host.Outcome State Fault Refusal :=
  perform .divpwr2 (divpwr2Value s.a s.b) s

/-- `negate(x)`, code 0x8 (R74). -/
def execNegate (s : State) : Host.Outcome State Fault Refusal :=
  perform .negate (negateValue s.a) s

/-- `isPositive(x)`, code 0x9 (R76). -/
def execIsPositive (s : State) : Host.Outcome State Fault Refusal :=
  perform .isPositive (isPositiveValue s.a) s

/-- `isLessOrEqual(x,y)`, code 0xA (R78). -/
def execIsLessOrEqual (s : State) : Host.Outcome State Fault Refusal :=
  perform .isLessOrEqual (isLessOrEqualValue s.a s.b) s

/-- `ilog2(x)`, code 0xB (R80). -/
def execIlog2 (s : State) : Host.Outcome State Fault Refusal :=
  perform .ilog2 (ilog2Value s.a) s

end Sys2Proof.Machine
end

