-- ==== Sys2Proof/Machine/Reserved.lean ====
section
/-! DEFINITION. The reserved code 0xF (30_encoding.md R45). -/

namespace Sys2Proof.Machine

/-- Code 0xF selects no operation: the result is `Unspecified`, whatever the operands, "and nothing else
happens" (R45, R105). -/
def execReserved (s : State) : Host.Outcome State Fault Refusal :=
  respond config .unspecified s

end Sys2Proof.Machine
end

