-- ==== Sys2Proof/Machine/Dispatch.lean ====
section
/-! DEFINITION. One arm per constructor of `Instr`. -/

namespace Sys2Proof.Machine

def exec (i : Instr) (s : State) : Host.Outcome State Fault Refusal :=
  match i with
  | .bitAnd => Sys2Proof.Machine.execBitAnd s
  | .getByte => Sys2Proof.Machine.execGetByte s
  | .logicalShift => Sys2Proof.Machine.execLogicalShift s
  | .bitCount => Sys2Proof.Machine.execBitCount s
  | .bang => Sys2Proof.Machine.execBang s
  | .tmin => Sys2Proof.Machine.execTmin s
  | .fitsBits => Sys2Proof.Machine.execFitsBits s
  | .divpwr2 => Sys2Proof.Machine.execDivpwr2 s
  | .negate => Sys2Proof.Machine.execNegate s
  | .isPositive => Sys2Proof.Machine.execIsPositive s
  | .isLessOrEqual => Sys2Proof.Machine.execIsLessOrEqual s
  | .ilog2 => Sys2Proof.Machine.execIlog2 s
  | .floatNeg => Sys2Proof.Machine.execFloatNeg s
  | .floatI2f => Sys2Proof.Machine.execFloatI2f s
  | .floatTwice => Sys2Proof.Machine.execFloatTwice s
  | .reserved => Sys2Proof.Machine.execReserved s

end Sys2Proof.Machine
end

