-- ==== Sys2Proof/Machine/Step.lean ====
section
/-! DEFINITION. One step: one transaction, evaluated atomically (30_encoding.md R50; log 2, log 9). -/

namespace Sys2Proof.Machine

/-- The operation to perform "is whatever value the `op` port carries" (20_memory.md R41): decode it and
evaluate it on the words on `a` and `b`. The inputs stay as the host holds them (R117, R121). -/
def step (s : State) : Host.Outcome State Fault Refusal := exec (decode s.op) s

/-- The state with a code on the `op` port, so that the next step performs it. -/
def State.withFetchWord (s : State) (_nbits w : Nat) : State := { s with op := BitVec.ofNat 4 w }

end Sys2Proof.Machine
end

