-- ==== Sys2Proof/Machine/Datapath.lean ====
section
/-! DEFINITION. The reference datapaths of the integer family (40_integer_family.md R59 to R81), written
out line by line as the rules write them. A datapath is a list of lines, each one expression over the
primitives of 00_scope.md R11 to R16; a later line may name an earlier one, and the last line is `r`. So a
datapath cannot hold a branch, a loop or an operator outside the set (R6, R54). They are the second, equal
definition of each operation (R82), not what a step computes (DESIGN CHOICE log 17, safe). -/

namespace Sys2Proof.Machine

/-- One expression of a datapath line. -/
inductive BitExpr where
  /-- The word on port `a`. -/
  | portA
  /-- The word on port `b`. -/
  | portB
  | const (w : Word)
  /-- The value of an earlier line, the first being line 0. -/
  | line (k : Nat)
  | not (e : BitExpr)
  | and (e f : BitExpr)
  | or (e f : BitExpr)
  | xor (e f : BitExpr)
  | add (e f : BitExpr)
  /-- `e << f`. -/
  | shl (e f : BitExpr)
  /-- `e >>a f`. -/
  | sar (e f : BitExpr)
  /-- `!e`: the `bang` datapath applied to e (R16). -/
  | bang (e : BitExpr)
deriving DecidableEq, Repr

/-- `!v` in a datapath: the three lines of R67 applied to v (R16, 92_eei_decisions.md D18). -/
def bangWord (v : Word) : Option Word := do
  let u ← sarWord (v ||| (~~~v + 1#32)) 31#32
  some (~~~u &&& 1#32)

/-- The value of an expression; none where a shift has an amount outside 0 to 31 (R15) or a line named is
not there. -/
def evalExpr (a b : Word) (lines : List Word) : BitExpr → Option Word
  | .portA => some a
  | .portB => some b
  | .const w => some w
  | .line k => lines[k]?
  | .not e => do
    let v ← evalExpr a b lines e
    some (~~~v)
  | .and e f => do
    let v ← evalExpr a b lines e
    let w ← evalExpr a b lines f
    some (v &&& w)
  | .or e f => do
    let v ← evalExpr a b lines e
    let w ← evalExpr a b lines f
    some (v ||| w)
  | .xor e f => do
    let v ← evalExpr a b lines e
    let w ← evalExpr a b lines f
    some (v ^^^ w)
  | .add e f => do
    let v ← evalExpr a b lines e
    let w ← evalExpr a b lines f
    some (v + w)
  | .shl e f => do
    let v ← evalExpr a b lines e
    let w ← evalExpr a b lines f
    shlWord v w
  | .sar e f => do
    let v ← evalExpr a b lines e
    let w ← evalExpr a b lines f
    sarWord v w
  | .bang e => do
    let v ← evalExpr a b lines e
    bangWord v

/-- The value of a datapath, the values of its earlier lines being given: that of its last line. -/
def evalLines (a b : Word) : List BitExpr → List Word → Option Word
  | [], _ => none
  | [e], lines => evalExpr a b lines e
  | e :: rest, lines => do
    let w ← evalExpr a b lines e
    evalLines a b rest (lines ++ [w])

/-- How many operators an expression has, constants free, `!` counted as `bangCost` (R123). -/
def exprOperators (bangCost : Nat) : BitExpr → Nat
  | .portA | .portB | .const _ | .line _ => 0
  | .not e => exprOperators bangCost e + 1
  | .bang e => exprOperators bangCost e + bangCost
  | .and e f | .or e f | .xor e f => exprOperators bangCost e + exprOperators bangCost f + 1
  | .add e f | .shl e f | .sar e f => exprOperators bangCost e + exprOperators bangCost f + 1

/-- How many operators a datapath has (R123): with `bangCost` 1 or, each `!` expanded, 6. -/
def operatorCount (bangCost : Nat) (lines : List BitExpr) : Nat :=
  (lines.map (exprOperators bangCost)).sum

/-- R59: `r = ~(~a | ~b)`. -/
def bitAndLines : List BitExpr :=
  [.not (.or (.not .portA) (.not .portB))]

/-- R61: `s = b << 3`, `r = (a >>a s) & 0xFF`. -/
def getByteLines : List BitExpr :=
  [.shl .portB (.const 3#32),
   .and (.sar .portA (.line 0)) (.const 0xFF#32)]

/-- R63: `t = (1 << 31) >>a b`, `m = ~(t << 1)`, `r = (a >>a b) & m`. -/
def logicalShiftLines : List BitExpr :=
  [.sar (.shl (.const 1#32) (.const 31#32)) .portB,
   .not (.shl (.line 0) (.const 1#32)),
   .and (.sar .portA .portB) (.line 1)]

/-- One pass of R65: `(v & m) + ((v >>a k) & m)`. -/
def bitCountPass (v : BitExpr) (k m : Word) : BitExpr :=
  .add (.and v (.const m)) (.and (.sar v (.const k)) (.const m))

/-- R65: five passes, the group size doubling in each. -/
def bitCountLines : List BitExpr :=
  [bitCountPass .portA 1#32 0x55555555#32,
   bitCountPass (.line 0) 2#32 0x33333333#32,
   bitCountPass (.line 1) 4#32 0x0F0F0F0F#32,
   bitCountPass (.line 2) 8#32 0x00FF00FF#32,
   bitCountPass (.line 3) 16#32 0x0000FFFF#32]

/-- R67: `t = a | (~a + 1)`, `u = t >>a 31`, `r = ~u & 1`. -/
def bangLines : List BitExpr :=
  [.or .portA (.add (.not .portA) (.const 1#32)),
   .sar (.line 0) (.const 31#32),
   .and (.not (.line 1)) (.const 1#32)]

/-- R69: `r = 1 << 31`. -/
def tminLines : List BitExpr :=
  [.shl (.const 1#32) (.const 31#32)]

/-- R71: `s = 33 + ~b`, `t = (a << s) >>a s`, `r = !(a ^ t)`. -/
def fitsBitsLines : List BitExpr :=
  [.add (.const 33#32) (.not .portB),
   .sar (.shl .portA (.line 0)) (.line 0),
   .bang (.xor .portA (.line 1))]

/-- R73: `sign = a >>a 31`, `bias = (1 << b) + ~0`, `r = (a + (sign & bias)) >>a b`. -/
def divpwr2Lines : List BitExpr :=
  [.sar .portA (.const 31#32),
   .add (.shl (.const 1#32) .portB) (.not (.const 0#32)),
   .sar (.add .portA (.and (.line 0) (.line 1))) .portB]

/-- R75: `r = ~a + 1`. -/
def negateLines : List BitExpr :=
  [.add (.not .portA) (.const 1#32)]

/-- R77: `neg = a >>a 31`, `zero = !a`, `r = !(neg | zero)`. -/
def isPositiveLines : List BitExpr :=
  [.sar .portA (.const 31#32),
   .bang .portA,
   .bang (.or (.line 0) (.line 1))]

/-- R79: `sa`, `sb`, `diff`, `d = a + ~b`, `sd`, `r = (diff & (sb ^ 1)) | ((diff ^ 1) & sd)`. As R79 writes
it, it has fourteen operators, not the fifteen of R123's table (DEDUCED log 12, safe). -/
def isLessOrEqualLines : List BitExpr :=
  [.and (.sar .portA (.const 31#32)) (.const 1#32),
   .and (.sar .portB (.const 31#32)) (.const 1#32),
   .xor (.line 0) (.line 1),
   .add .portA (.not .portB),
   .and (.sar (.line 3) (.const 31#32)) (.const 1#32),
   .or (.and (.line 2) (.xor (.line 1) (.const 1#32))) (.and (.xor (.line 2) (.const 1#32)) (.line 4))]

/-- R81: `s16`, `v1`, `s8`, `v2`, `s4`, `v3`, `s2`, `v4`, `s1`, and their sum. -/
def ilog2Lines : List BitExpr :=
  [.shl (.bang (.bang (.sar .portA (.const 16#32)))) (.const 4#32),
   .sar .portA (.line 0),
   .shl (.bang (.bang (.sar (.line 1) (.const 8#32)))) (.const 3#32),
   .sar (.line 1) (.line 2),
   .shl (.bang (.bang (.sar (.line 3) (.const 4#32)))) (.const 2#32),
   .sar (.line 3) (.line 4),
   .shl (.bang (.bang (.sar (.line 5) (.const 2#32)))) (.const 1#32),
   .sar (.line 5) (.line 6),
   .bang (.bang (.sar (.line 7) (.const 1#32))),
   .add (.add (.add (.add (.line 0) (.line 2)) (.line 4)) (.line 6)) (.line 8)]

/-- The datapath of each operation of the integer family; the other codes have none of this form. -/
def integerDatapath : Instr → Option (List BitExpr)
  | .bitAnd => some bitAndLines
  | .getByte => some getByteLines
  | .logicalShift => some logicalShiftLines
  | .bitCount => some bitCountLines
  | .bang => some bangLines
  | .tmin => some tminLines
  | .fitsBits => some fitsBitsLines
  | .divpwr2 => some divpwr2Lines
  | .negate => some negateLines
  | .isPositive => some isPositiveLines
  | .isLessOrEqual => some isLessOrEqualLines
  | .ilog2 => some ilog2Lines
  | .floatNeg | .floatI2f | .floatTwice | .reserved => none

end Sys2Proof.Machine
end

