-- ==== Sys2Proof/Machine/FloatDatapath.lean ====
section
/-! DEFINITION. The reference datapaths of the float family (41_float_family.md R93, R96, R98). This family
may branch, compare and loop (R89); its shifts still have no value outside 0 to 31 (70_reset_and_hazards.md
R120). They are the second, equal definition of each operation (R100). -/

namespace Sys2Proof.Machine

/-- R93, "the source's text line for line". -/
def floatNegDatapath (a : Word) : Option Word :=
  if unsigned (a &&& 0x7FFFFFFF#32) > 0x7F800000 then some a
  else some (a ^^^ 0x80000000#32)

/-- The loop of R96: shift left, counting, until the bit shifted out of the top is set. The bound is the
rule's "at most 32 rounds", and reaching it has no value (DESIGN CHOICE log 17). -/
def normaliseLoop : (rounds : Nat) → (v : Word) → (count : Nat) → Option (Nat × Word)
  | 0, _, _ => none
  | rounds + 1, v, count => do
    let t := v
    let v ← shlWord v 1#32
    if t.getLsbD 31 then some (count + 1, v) else normaliseLoop rounds v (count + 1)

/-- `sign` and `mag` of R96. -/
def signAndMagnitude (a : Word) : Word × Word :=
  let sign := a &&& 0x80000000#32
  (sign, if sign ≠ 0#32 then ~~~a + 1#32 else a)

/-- The lines of R96 after the loop: exponent, fraction, rounding and the 32-bit sum. -/
def assemblePattern (sign : Word) (count : Nat) (v : Word) : Option Word := do
  let e := word (159 - (count : Int))
  let frac := (v.extractLsb' 9 23).setWidth 32
  let up := boolWord (decide (unsigned (v &&& 0x1FF#32) > 0x100) || (v &&& 0x3FF#32) == 0x300#32)
  let e23 ← shlWord e 23#32
  some (sign + e23 + frac + up)

/-- R96 with its normalising loop. -/
def floatI2fDatapath (a : Word) : Option Word :=
  if a = 0#32 then some 0#32
  else do
    let (sign, mag) := signAndMagnitude a
    let (count, v) ← normaliseLoop 32 mag 0
    assemblePattern sign count v

/-- R96 with the closed form of the loop: `v = (mag << (31 − p)) << 1`, `count = 32 − p`. -/
def floatI2fClosedDatapath (a : Word) : Option Word :=
  if a = 0#32 then some 0#32
  else do
    let (sign, mag) := signAndMagnitude a
    let p := highestBit (unsigned mag)
    let w ← shlWord mag (word (31 - (p : Int)))
    let v ← shlWord w 1#32
    assemblePattern sign (32 - p) v

/-- R98; with `TWICE_FE = carry` the third arm is absent. -/
def floatTwiceDatapath (fe : TwiceFe) (a : Word) : Option Word :=
  let e := a.extractLsb' 23 8
  if e = 0x00#8 then do
    let d ← shlWord a 1#32
    some ((a &&& 0x80000000#32) ||| d)
  else if e = 0xFF#8 then some a
  else if e = 0xFE#8 ∧ fe = .infinity then some ((a &&& 0x80000000#32) ||| 0x7F800000#32)
  else some (a + 0x00800000#32)

end Sys2Proof.Machine
end

