-- ==== Sys2Proof/Machine/Transaction.lean ====
section
/-! DEFINITION. The transaction as the spec has it, a function and no machine: `exec(op, a, b)` of
30_encoding.md R50 for every setting of the parameters of 00_scope.md R8, its reference form, and the
68-bit transaction word with its printed form (R51). -/

namespace Sys2Proof.Machine

/-- The functional result of an operation (R58 to R80, R92 to R97); the reserved code has none. -/
def functionalResult (cfg : Config) (i : Instr) (a b : Word) : Option Word :=
  match i with
  | .bitAnd => some (bitAndValue a b)
  | .getByte => some (getByteValue a b)
  | .logicalShift => some (logicalShiftValue a b)
  | .bitCount => some (bitCountValue a)
  | .bang => some (bangValue a)
  | .tmin => some tminValue
  | .fitsBits => some (fitsBitsValue a b)
  | .divpwr2 => some (divpwr2Value a b)
  | .negate => some (negateValue a)
  | .isPositive => some (isPositiveValue a)
  | .isLessOrEqual => some (isLessOrEqualValue a b)
  | .ilog2 => some (ilog2Value a)
  | .floatNeg => some (floatNegValue a)
  | .floatI2f => some (floatI2fValue a)
  | .floatTwice => some (floatTwiceValue cfg.twiceFe a)
  | .reserved => none

/-- The value of an operation's reference datapath (R59 to R81, R93 to R98). -/
def datapathResult (cfg : Config) (i : Instr) (a b : Word) : Option Word :=
  match i with
  | .floatNeg => floatNegDatapath a
  | .floatI2f => floatI2fDatapath a
  | .floatTwice => floatTwiceDatapath cfg.twiceFe a
  | .bitAnd | .getByte | .logicalShift | .bitCount | .bang | .tmin | .fitsBits | .divpwr2
  | .negate | .isPositive | .isLessOrEqual | .ilog2 | .reserved => do
    let lines ← integerDatapath i
    evalLines a b lines []

/-- `exec(op, a, b) : Result` of R50, the code decoded. -/
def transactionResult (cfg : Config) (code : Code) (a b : Word) : Result :=
  match functionalResult cfg (decode code) a b with
  | none => .unspecified
  | some w => if inDomain (decode code) a b then .val w else .unspecified

/-- The block with any parameters: it answers the transaction that stands on its ports. -/
def stepWith (cfg : Config) (s : State) : Host.Outcome State Fault Refusal :=
  respond cfg (transactionResult cfg s.op s.a s.b) s

/-- A transaction (R50). -/
structure Transaction where
  op : Code
  a : Word
  b : Word
deriving DecidableEq, Repr

/-- The block alone, as R20 has it: from its (empty) state, a transaction, and the word an oracle offers for
an `Unspecified` result (R17, 93_implementation_defined.md U1), the result word and the state after. Nothing
else is read and nothing else is written. None where a block built with `UNSPEC = refuse` refuses. -/
def transact (cfg : Config) (draw : Word) (x : BlockState) (t : Transaction) : Option (Word × BlockState) :=
  match transactionResult cfg t.op t.a t.b, cfg.unspec with
  | .val w, _ => some (w, x)
  | .unspecified, .draw => some (draw, x)
  | .unspecified, .refuse => none

/-- The transaction that stands on the ports. -/
def State.transaction (s : State) : Transaction := { op := s.op, a := s.a, b := s.b }

/-- The transaction word `T[67:0] = {op, a, b}` (R51): notation, not a bus. -/
def Transaction.toWord (t : Transaction) : BitVec 68 := t.op ++ t.a ++ t.b

/-- `T[67:64]` is the code, `T[63:32]` is `a`, `T[31:0]` is `b` (R51). -/
def Transaction.ofWord (w : BitVec 68) : Transaction :=
  { op := w.extractLsb' 64 4, a := w.extractLsb' 32 32, b := w.extractLsb' 0 32 }

/-- The ports an operation ignores written as zeros (R51). -/
def Transaction.canonical (t : Transaction) : Transaction :=
  { op := t.op
    a := if readingOfA (decode t.op) = .ignored then 0#32 else t.a
    b := if readingOfB (decode t.op) = .ignored then 0#32 else t.b }

/-- A hexadecimal digit as the spec prints it, upper case. -/
def hexDigit (d : Nat) : Char :=
  if d < 10 then Char.ofNat (48 + d) else Char.ofNat (55 + d)

/-- The n low hexadecimal digits of a number, most significant first. -/
def hexDigits : (n : Nat) → (w : Nat) → List Char
  | 0, _ => []
  | n + 1, w => hexDigit (w / 16 ^ n % 16) :: hexDigits n w

/-- The printed form `O_AAAAAAAA_BBBBBBBB` (R51). -/
def Transaction.print (t : Transaction) : List Char :=
  hexDigits 1 t.op.toNat ++ ['_'] ++ hexDigits 8 t.a.toNat ++ ['_'] ++ hexDigits 8 t.b.toNat

/-- The value of a hexadecimal digit. -/
def hexValue (c : Char) : Option Nat :=
  if '0' ≤ c ∧ c ≤ '9' then some (c.toNat - 48)
  else if 'A' ≤ c ∧ c ≤ 'F' then some (c.toNat - 55)
  else none

/-- The value of a row of hexadecimal digits, on top of a value read before. -/
def hexNumber : List Char → Nat → Option Nat
  | [], acc => some acc
  | c :: rest, acc => do
    let d ← hexValue c
    hexNumber rest (acc * 16 + d)

/-- Reading the printed form back: seventeen digits in the three groups, and nothing else. -/
def Transaction.parse (text : List Char) : Option Transaction := do
  let op := text.take 1
  let a := (text.drop 2).take 8
  let b := (text.drop 11).take 8
  if text.length = 19 ∧ text[1]? = some '_' ∧ text[10]? = some '_' then
    let op ← hexNumber op 0
    let a ← hexNumber a 0
    let b ← hexNumber b 0
    some { op := BitVec.ofNat 4 op, a := BitVec.ofNat 32 a, b := BitVec.ofNat 32 b }
  else none

end Sys2Proof.Machine
end

