-- ==== Sys2Proof/Machine/Script.lean ====
section
/-! DEFINITION. The host's side: calls as the source writes them (30_encoding.md R52) and transaction
scripts (R53). A script is a host program; the block sees a sequence of independent transactions. -/

namespace Sys2Proof.Machine

/-- A constant argument of a call (R52): hexadecimal with `0x`, or decimal with an optional minus sign. -/
inductive Constant where
  | hex (w : Word)
  | decimal (d : Int)
deriving DecidableEq, Repr

/-- The word a constant stands for: a negative decimal d is `word(d)` (R52). A decimal that no reading of
a 32-bit word has is no constant (DESIGN CHOICE log 18, safe). -/
def Constant.toWord : Constant → Option Word
  | .hex w => some w
  | .decimal d => if -(2 ^ 31) ≤ d ∧ d < 2 ^ 32 then some (word d) else none

/-- The text of a constant. -/
def Constant.print : Constant → String
  | .hex w => "0x" ++ String.ofList (hexDigits 8 w.toNat)
  | .decimal d => toString d

/-- A call: a mnemonic and the used arguments, first argument first (R52). -/
structure Call where
  op : Instr
  args : List Constant
deriving DecidableEq, Repr

/-- `mnemonic(arg, ...)`, the arguments separated by commas (R52). -/
def Call.print (c : Call) : String :=
  mnemonicOf c.op ++ "(" ++ String.intercalate "," (c.args.map Constant.print) ++ ")"

/-- A call with its claimed result, `call == value` (R52). -/
def Call.printClaim (c : Call) (value : Constant) : String :=
  c.print ++ " == " ++ value.print

/-- An argument of a script line: a constant word, or the result of line j (R53). -/
inductive Argument where
  | const (w : Word)
  | result (j : Nat)
deriving DecidableEq, Repr

/-- A line `t<k> = mnemonic(arg, ...)` of a script (R53). -/
structure Line where
  op : Instr
  args : List Argument
deriving DecidableEq, Repr

/-- The word of an argument, the results of the earlier lines being given; a line can name only earlier
ones (R53). -/
def Argument.resolve (earlier : List Word) : Argument → Option Word
  | .const w => some w
  | .result j => earlier[j]?

/-- The words of all of a line's arguments. -/
def resolveAll (earlier : List Word) : List Argument → Option (List Word)
  | [] => some []
  | arg :: rest => do
    let w ← arg.resolve earlier
    let ws ← resolveAll earlier rest
    some (w :: ws)

/-- The transaction of an operation and its argument words: the first on `a`, the second on `b`, ignored
ports zero (R43, R51). None for the reserved code and for a wrong number of arguments. -/
def transactionOf (op : Instr) (args : List Word) : Option Transaction :=
  if wellFormed op ∧ args.length = argumentCount op then
    some { op := encode op, a := args.getD 0 0#32, b := args.getD 1 0#32 }
  else none

/-- The transaction a script line presents. -/
def Line.transaction (earlier : List Word) (l : Line) : Option Transaction := do
  let ws ← resolveAll earlier l.args
  transactionOf l.op ws

/-- The transaction a call presents. -/
def Call.transaction (c : Call) : Option Transaction := do
  let l : Line := { op := c.op, args := ← c.args.mapM fun k => k.toWord.map Argument.const }
  l.transaction []

/-- Why a script stops before its end. -/
inductive ScriptStop where
  /-- Line k presents no transaction (DESIGN CHOICE log 18, safe). -/
  | badLine (k : Nat)
  /-- The block faulted; it has no fault, so this does not happen. -/
  | blockFault (f : Fault)
  /-- The block refused; with `UNSPEC = draw` it does not. -/
  | blockRefused (r : Refusal)
deriving DecidableEq, Repr

/-- The host runs a script: for each line it drives the transaction, lets the block evaluate it and samples
`r` (R50, R53). The words collected so far are given, and the rest follow. -/
def runScript : List Line → State → List Word → Except ScriptStop (State × List Word)
  | [], s, words => .ok (s, words)
  | l :: rest, s, words =>
    match l.transaction words with
    | none => .error (.badLine words.length)
    | some t =>
      match step (s.drive t.op t.a t.b) with
      | .next s' => runScript rest s' (words ++ [s'.r])
      | .fault f => .error (.blockFault f)
      | .refused r => .error (.blockRefused r)

/-- The words a script collects as far as the rules give them: none where a line presents no transaction
or leaves its operation's domain. -/
def scriptWords (cfg : Config) : List Line → List Word → Option (List Word)
  | [], words => some words
  | l :: rest, words => do
    let t ← l.transaction words
    match transactionResult cfg t.op t.a t.b with
    | .val w => scriptWords cfg rest (words ++ [w])
    | .unspecified => none

end Sys2Proof.Machine
end

