-- ==== Sys2Proof/Safety.lean ====
section
/-! DEFINITION. What a safe use of the block is, in the terms the statements use. -/

namespace Sys2Proof.Machine

/-- The host's duty per transaction (70_reset_and_hazards.md R116, R119): a code other than 0xF, and
operands inside the operation's domain. -/
def State.hostDutyMet (s : State) : Bool := inDomain (decode s.op) s.a s.b

/-- The output has settled: where the rules give the transaction on the ports a word, `r` carries it (R22:
`r` is a combinational function of `op`, `a` and `b`). -/
def State.settled (s : State) : Bool :=
  match transactionResult config s.op s.a s.b with
  | .val w => s.r == w
  | .unspecified => true

/-- The word a host samples after a step: none where the step stops. -/
def sampled (o : Host.Outcome State Fault Refusal) : Option Word :=
  match o with
  | .next t => some t.r
  | .fault _ => none
  | .refused _ => none

/-- The transaction `(code, a, b)` gives the word w: from every state with it on the ports a step completes,
`r` carries w, and nothing else changes (00_scope.md R17). -/
def Gives (code : Code) (a b w : Word) : Prop :=
  ∀ s : State, s.op = code → s.a = a → s.b = b → step s = .next { s with r := w }

end Sys2Proof.Machine
end

