-- ==== Sys2Proof/Certificates/Slice0/Obligations.lean ====
section
/-! DEFINITION. The statements for the provers. Each says which rule of spec/ it formalises; where a clause
rests on a choice of the model its docstring names the log entry. "The result" of an in-domain transaction
is the word on `r` of a next state that differs from the state before in `r` alone, so every result statement
is also the completion statement and the frame of its operation. -/

open Sys2Proof Sys2Proof.Machine

/-! ## Encoding and the step -/

/-- R44, R49: the operation map row by row (code, operation, mnemonic, family, number of arguments); decoding
is total and injective on 0x0 to 0xE, `encode` is its inverse on the fifteen operations, and 0xF alone is
reserved. The numbering is the spec's decision D3 and R49 its own inference. -/
def Obligations.DecodeIsTheOperationMap : Prop :=
  (∀ row ∈ ([(0x0#4, .bitAnd, "bitAnd", .integer, 2), (0x1#4, .getByte, "getByte", .integer, 2),
      (0x2#4, .logicalShift, "logicalShift", .integer, 2), (0x3#4, .bitCount, "bitCount", .integer, 1),
      (0x4#4, .bang, "bang", .integer, 1), (0x5#4, .tmin, "tmin", .integer, 0),
      (0x6#4, .fitsBits, "fitsBits", .integer, 2), (0x7#4, .divpwr2, "divpwr2", .integer, 2),
      (0x8#4, .negate, "negate", .integer, 1), (0x9#4, .isPositive, "isPositive", .integer, 1),
      (0xA#4, .isLessOrEqual, "isLessOrEqual", .integer, 2), (0xB#4, .ilog2, "ilog2", .integer, 1),
      (0xC#4, .floatNeg, "float_neg", .float, 1), (0xD#4, .floatI2f, "float_i2f", .float, 1),
      (0xE#4, .floatTwice, "float_twice", .float, 1), (0xF#4, .reserved, "(reserved)", .none, 0)] :
      List (Code × Instr × String × Family × Nat)),
    decode row.1 = row.2.1 ∧ mnemonicOf row.2.1 = row.2.2.1 ∧ familyOf row.2.1 = row.2.2.2.1 ∧
      argumentCount row.2.1 = row.2.2.2.2) ∧
  (∀ i : Instr, wellFormed i = true → decode (encode i) = i) ∧
  (∀ c : Code, c ≠ 0xF#4 → wellFormed (decode c) = true ∧ encode (decode c) = c) ∧
  (∀ c d : Code, c ≠ 0xF#4 → decode c = decode d → c = d)

/-- A few codes, written out bit by bit from the binary column of R44; a number that needs a fifth bit is no
code (log 15); and the two high bits select the float family or the reserved code, a property R44 marks as
derived. -/
def Obligations.SampleCodesDecodeAsWritten : Prop :=
  decode 0b0001#4 = .getByte ∧ decode 0b0111#4 = .divpwr2 ∧ decode 0b1101#4 = .floatI2f ∧
    decodeTableWord 4 0b1110 = some .floatTwice ∧ decodeTableWord 4 16 = none ∧
    ∀ c : Code, c.extractLsb' 2 2 = 0b11#2 ↔ familyOf (decode c) ≠ .integer

/-- R51: the transaction word is `{op, a, b}` and gives the transaction back, and its printed form of
seventeen digits in three groups can be read back; the canonical form has zeros on ignored ports and the same
result; with the rule's example. -/
def Obligations.TransactionWordCarriesTheTransaction : Prop :=
  (∀ t : Transaction,
    t.toWord.extractLsb' 64 4 = t.op ∧ t.toWord.extractLsb' 32 32 = t.a ∧ t.toWord.extractLsb' 0 32 = t.b) ∧
  (∀ t : Transaction, Transaction.ofWord t.toWord = t) ∧
  (∀ w : BitVec 68, (Transaction.ofWord w).toWord = w) ∧
  (∀ t : Transaction, t.print = hexDigits 1 t.op.toNat ++ '_' :: hexDigits 8 t.a.toNat ++ '_' :: hexDigits 8 t.b.toNat ∧
    Transaction.parse t.print = some t) ∧
  (∀ (cfg : Config) (t : Transaction), t.canonical.op = t.op ∧
    (readingOfA (decode t.op) = .ignored → t.canonical.a = 0#32) ∧
    (readingOfB (decode t.op) = .ignored → t.canonical.b = 0#32) ∧
    transactionResult cfg t.op t.canonical.a t.canonical.b = transactionResult cfg t.op t.a t.b) ∧
  Transaction.print { op := 0x1#4, a := 0x12345678#32, b := 1#32 } = "1_12345678_00000001".toList

/-- The operation to perform is whatever value the `op` port carries (R41, R50): a step is `exec` of the
decoded code, and nothing stands around it. `withFetchWord` puts a code on the port and touches nothing else
(log 2, log 15). -/
def Obligations.StepRunsTheDecodedOperation : Prop :=
  (∀ s : State, step s = exec (decode s.op) s) ∧
  (∀ (i : Instr) (s : State), wellFormed i = true → s.op = encode i → step s = exec i s) ∧
  (∀ (s : State) (nbits w : Nat) (i : Instr), decodeTableWord nbits w = some i →
    step (s.withFetchWord nbits w) = exec i (s.withFetchWord nbits w)) ∧
  (∀ (s : State) (nbits w : Nat), s.withFetchWord nbits w = { s with op := BitVec.ofNat 4 w })

/-- R50: a step is the transaction function: the reserved code and operands outside the domain are
`Unspecified`, and inside it the result is the operation's functional result; the answer goes to `r`. -/
def Obligations.StepIsTheTransactionFunction : Prop :=
  ∀ s : State,
    step s = stepWith config s ∧
    (decode s.op = .reserved → transactionResult config s.op s.a s.b = .unspecified) ∧
    (decode s.op ≠ .reserved → inDomain (decode s.op) s.a s.b = true →
      ∃ w, functionalResult config (decode s.op) s.a s.b = some w ∧
        transactionResult config s.op s.a s.b = .val w) ∧
    (inDomain (decode s.op) s.a s.b = false → transactionResult config s.op s.a s.b = .unspecified)

/-- R102, R103: what a transaction can come to, whatever the operands and the parameters: a completion, or, in
a block built with `UNSPEC = refuse` and there only for an `Unspecified` result, the refusal of that name; and
a script errs only at one of its own lines or by that refusal. So nothing faults, and no other refusal is
given. -/
def Obligations.OutcomesAreCompletionsOrTheRefusal : Prop :=
  (∀ (cfg : Config) (s : State),
    (∃ t : State, stepWith cfg s = .next t) ∨
    (cfg.unspec = .refuse ∧ transactionResult cfg s.op s.a s.b = .unspecified ∧
      stepWith cfg s = .refused .unspecifiedResult)) ∧
  (∀ (i : Instr) (s : State),
    (∃ t : State, exec i s = .next t) ∨ exec i s = .refused .unspecifiedResult) ∧
  (∀ (ls : List Line) (s : State) (ws : List Word) (e : ScriptStop), runScript ls s ws = .error e →
    (∃ k, e = .badLine k ∧ ws.length ≤ k ∧ k < ws.length + ls.length) ∨
    e = .blockRefused .unspecifiedResult)

/-- Every step and every line of a script completes. It rests on `UNSPEC = draw` (DESIGN CHOICE log 5), under
which a transaction the rules give no word takes a free one. -/
def Obligations.EveryTransactionCompletes : Prop :=
  (∀ (i : Instr) (s : State), ∃ t : State, exec i s = .next t) ∧
  (∀ s : State, ∃ t : State, step s = .next t) ∧
  (∀ (ls : List Line) (s : State) (ws : List Word) (e : ScriptStop), runScript ls s ws = .error e →
    ∃ k, e = .badLine k)

/-- R17: whatever the operation, a completed transaction changes nothing but `r`; the model's own counter
(log 4) moves only where the result is `Unspecified`. -/
def Obligations.TransactionsLeaveThePortsAlone : Prop :=
  ∀ (i : Instr) (s t : State), exec i s = .next t →
    t.op = s.op ∧ t.a = s.a ∧ t.b = s.b ∧
      (inDomain i s.a s.b = true → t = { s with r := t.r }) ∧
      (inDomain i s.a s.b = false → t = { s with r := t.r, draws := s.draws + 1 })

/-- An evaluation settles the output: after any step, from any state, `r` carries what the rules give the
transaction on the ports (R22, R31), and so after every script that has a line. So `settled` is an invariant
of the step. -/
def Obligations.EveryStepSettlesTheOutput : Prop :=
  (∀ s t : State, step s = .next t → t.settled = true) ∧
  (∀ (l : Line) (ls : List Line) (s t : State) (ws ws' : List Word),
    runScript (l :: ls) s ws = .ok (t, ws') → t.settled = true)

/-- The reset state is settled. That its ports hold zeros is the model's choice (DESIGN CHOICE log 3): the
spec gives no reset value (R31). -/
def Obligations.ResetStateIsSettled : Prop :=
  State.reset.settled = true ∧ State.reset.hostDutyMet = true ∧ step State.reset = .next State.reset

/-! ## Independence -/

/-- R20: the block's own state is the empty record, so the block is a function of the transaction and, for an
`Unspecified` result alone, of the word the oracle offers; and a step is that function on the words on the
ports: it reads nothing else and writes nothing but `r`. That the port words and the oracle's place stand in
State is the model's choice (DESIGN CHOICE log 1, log 4). -/
def Obligations.BlockHoldsNoState : Prop :=
  (∀ x y : BlockState, x = y) ∧
  (∀ (cfg : Config) (d e : Word) (x y : BlockState) (t : Transaction),
    transactionResult cfg t.op t.a t.b ≠ .unspecified → transact cfg d x t = transact cfg e y t) ∧
  (∀ (s : State), ∃ (w : Word) (x : BlockState),
    transact config (Config.freeWord s.draws) s.block s.transaction = some (w, x) ∧
    step s = .next { s with
      block := x
      r := w
      draws := if inDomain (decode s.op) s.a s.b then s.draws else s.draws + 1 }) ∧
  (∀ s t : State, s.transaction = t.transaction → Config.freeWord s.draws = Config.freeWord t.draws →
    sampled (step s) = sampled (step t))

/-- R28: for operands inside the domain, two transactions with equal `(op, a, b)` give equal `r`, from any
two states. -/
def Obligations.EqualTransactionsGiveEqualResults : Prop :=
  ∀ s t : State, s.op = t.op → s.a = t.a → s.b = t.b → s.hostDutyMet = true →
    ∃ w, step s = .next { s with r := w } ∧ step t = .next { t with r := w }

/-- R48: an ignored port does not influence the result, in any setting of the parameters. R47's table has
`b` ignored in nine rows, the eight one-argument operations and `tmin` (R48 calls the nine "one-argument",
log 19), and `a` in the row of `tmin`. -/
def Obligations.IgnoredPortsDoNotMatter : Prop :=
  (∀ i ∈ ([.bitCount, .bang, .negate, .isPositive, .ilog2, .floatNeg, .floatI2f, .floatTwice, .tmin] :
      List Instr),
    ∀ (cfg : Config) (a v w : Word),
      transactionResult cfg (encode i) a v = transactionResult cfg (encode i) a w) ∧
  (∀ (cfg : Config) (v w b : Word),
    transactionResult cfg (encode .tmin) v b = transactionResult cfg (encode .tmin) w b) ∧
  (∀ (i : Instr) (s : State) (v : Word), readingOfB i = .ignored → inDomain i s.a s.b = true →
    sampled (exec i { s with b := v }) = sampled (exec i s) ∧ (sampled (exec i s)).isSome = true)

/-- R36, R121: evaluating a held in-domain transaction again changes nothing. -/
def Obligations.EvaluationIsIdempotent : Prop :=
  ∀ s t : State, s.hostDutyMet = true → step s = .next t → step t = .next t

/-- R53, R28: from every state a script whose lines stay inside their domains collects the words the rules
give its transactions, whatever came before. -/
def Obligations.ScriptsCollectTheResultsOfTheRules : Prop :=
  ∀ (ls : List Line) (ws : List Word), scriptWords config ls [] = some ws →
    ∀ s : State, ∃ t : State, runScript ls s [] = .ok (t, ws)

/-- R119, R103: whatever a script presented before, a last in-domain line gets its word; violating a
precondition costs only that transaction's result. -/
def Obligations.EarlierTransactionsDisturbNothing : Prop :=
  ∀ (ls : List Line) (l : Line) (s t : State) (ws : List Word) (tr : Transaction) (w : Word),
    runScript ls s [] = .ok (t, ws) → l.transaction ws = some tr →
    transactionResult config tr.op tr.a tr.b = .val w →
    ∃ u : State, runScript (ls ++ [l]) s [] = .ok (u, ws ++ [w]) ∧ u.r = w ∧ u.op = tr.op ∧
      u.a = tr.a ∧ u.b = tr.b

/-! ## Parameters and Unspecified results -/

/-- R56, R91: the domain of each operation, row by row; outside it the result is `Unspecified` for every
setting of the parameters, and inside it never. The three float rows are R91, which the spec marks as its own
inference. -/
def Obligations.DomainsAreTheDocumentedOnes : Prop :=
  (∀ i ∈ ([.bitAnd, .bitCount, .bang, .tmin, .negate, .isPositive, .isLessOrEqual, .floatNeg, .floatI2f,
      .floatTwice] : List Instr), ∀ a b : Word, inDomain i a b = true) ∧
  (∀ a b : Word, (inDomain .getByte a b = true ↔ 0 ≤ signed b ∧ signed b ≤ 3) ∧
    (inDomain .logicalShift a b = true ↔ 0 ≤ signed b ∧ signed b ≤ 31) ∧
    (inDomain .fitsBits a b = true ↔ 1 ≤ signed b ∧ signed b ≤ 32) ∧
    (inDomain .divpwr2 a b = true ↔ 0 ≤ signed b ∧ signed b ≤ 30) ∧
    (inDomain .ilog2 a b = true ↔ 0 < signed a)) ∧
  (∀ (cfg : Config) (i : Instr) (a b : Word), wellFormed i = true →
    (transactionResult cfg (encode i) a b = .unspecified ↔ inDomain i a b = false))

/-- Outside its domain an operation completes with a free word on `r` and changes nothing else of the block
(R17, R103). The free word and its counter are the model's (DESIGN CHOICE log 4, log 5); the statement says
nothing of the word's value. -/
def Obligations.OutsideTheDomainTheResultIsFree : Prop :=
  ∀ s : State,
    (signed s.b < 0 ∨ 3 < signed s.b →
      exec .getByte s = .next { s with r := Config.freeWord s.draws, draws := s.draws + 1 }) ∧
    (signed s.b < 0 ∨ 31 < signed s.b →
      exec .logicalShift s = .next { s with r := Config.freeWord s.draws, draws := s.draws + 1 }) ∧
    (signed s.b < 1 ∨ 32 < signed s.b →
      exec .fitsBits s = .next { s with r := Config.freeWord s.draws, draws := s.draws + 1 }) ∧
    (signed s.b < 0 ∨ 30 < signed s.b →
      exec .divpwr2 s = .next { s with r := Config.freeWord s.draws, draws := s.draws + 1 }) ∧
    (signed s.a ≤ 0 →
      exec .ilog2 s = .next { s with r := Config.freeWord s.draws, draws := s.draws + 1 })

/-- The reserved code (R45): with any operands it completes with a free word on `r`, nothing else of the
block changes, and a block built with `UNSPEC = refuse` refuses it. The free word is the model's (DESIGN
CHOICE log 4, log 5). -/
def Obligations.ReservedCodeResultIsFree : Prop :=
  decode 0xF#4 = .reserved ∧
  (∀ s : State, exec .reserved s = .next { s with r := Config.freeWord s.draws, draws := s.draws + 1 }) ∧
  (∀ (cfg : Config) (s : State), s.op = 0xF#4 → cfg.unspec = .refuse →
    stepWith cfg s = .refused .unspecifiedResult)

/-- R8, R17, U1: what the parameter `UNSPEC` decides and what it does not: with `refuse` a block refuses
exactly the `Unspecified` transactions, with `draw` it refuses none, and a result the rules give is the same
under both. -/
def Obligations.UnspecDecidesOnlyUnspecifiedResults : Prop :=
  ∀ (fe : TwiceFe) (s : State),
    (stepWith { twiceFe := fe, unspec := .refuse } s = .refused .unspecifiedResult ↔
      transactionResult { twiceFe := fe, unspec := .refuse } s.op s.a s.b = .unspecified) ∧
    (∃ t : State, stepWith { twiceFe := fe, unspec := .draw } s = .next t ∧ t = { s with r := t.r, draws := t.draws }) ∧
    (∀ w : Word, transactionResult { twiceFe := fe, unspec := .refuse } s.op s.a s.b = .val w →
      stepWith { twiceFe := fe, unspec := .refuse } s = .next { s with r := w } ∧
      stepWith { twiceFe := fe, unspec := .draw } s = .next { s with r := w })

/-- R97, C1: what the parameter `TWICE_FE` decides: only `float_twice` of a pattern with exponent field 0xFE
and a nonzero mantissa. -/
def Obligations.TwiceFeDecidesOnlyOneCase : Prop :=
  (∀ (us : Unspec) (code : Code) (a b : Word), ¬ (code = 0xE#4 ∧ expOf a = 0xFE ∧ manOf a ≠ 0) →
    transactionResult { twiceFe := .infinity, unspec := us } code a b =
      transactionResult { twiceFe := .carry, unspec := us } code a b) ∧
  (∀ a : Word, expOf a = 0xFE → manOf a ≠ 0 →
    classOf (floatTwiceValue .infinity a) = .infinity ∧ classOf (floatTwiceValue .carry a) = .nan)

/-! ## The notation of the rules -/

/-- R10: the two readings of a word, and `word(k)`. -/
def Obligations.ReadingsOfAWord : Prop :=
  (∀ v : Word, unsigned v = ∑ i : Fin 32, (v.getLsbD i).toNat * 2 ^ (i : Nat)) ∧
  (∀ v : Word, signed v = if v.getLsbD 31 then (unsigned v : Int) - 2 ^ 32 else (unsigned v : Int)) ∧
  (∀ v : Word, unsigned v ≤ 2 ^ 32 - 1 ∧ -(2 ^ 31) ≤ signed v ∧ signed v ≤ 2 ^ 31 - 1) ∧
  (∀ k : Int, (unsigned (word k) : Int) = k % 2 ^ 32)

/-- R13, R14: the two shifts bit by bit, for amounts 0 to 31. -/
def Obligations.ShiftsMoveBits : Prop :=
  ∀ v s : Word, 0 ≤ signed s → signed s ≤ 31 →
    (∃ w, shlWord v s = some w ∧ w = word ((unsigned v : Int) * 2 ^ (signed s).toNat) ∧
      ∀ i < 32, w.getLsbD i = if i < (signed s).toNat then false else v.getLsbD (i - (signed s).toNat)) ∧
    (∃ w, sarWord v s = some w ∧ signed w = ⌊(signed v : ℚ) / 2 ^ (signed s).toNat⌋ ∧
      ∀ i < 32, w.getLsbD i =
        if i + (signed s).toNat ≤ 31 then v.getLsbD (i + (signed s).toNat) else v.getLsbD 31)

/-- R15: a shift by an amount outside 0 to 31 has no meaning, and no reference datapath performs one for
operands inside its operation's domain. -/
def Obligations.ShiftAmountsStayInRange : Prop :=
  (∀ v s : Word, signed s < 0 ∨ 31 < signed s → shlWord v s = none ∧ sarWord v s = none) ∧
  (∀ (cfg : Config) (i : Instr) (a b : Word), inDomain i a b = true →
    (datapathResult cfg i a b).isSome = true)

/-- R47: the result of every operation reads as the table's `r` column says, in any setting of the
parameters; the four predicates return 1 or 0 and no other word (R55). -/
def Obligations.ResultsReadAsTheTableSays : Prop :=
  ∀ (cfg : Config) (i : Instr) (a b w : Word),
    transactionResult cfg (encode i) a b = .val w →
      (readingOfResult i).admits w = true ∧
      (i ∈ ([.bang, .fitsBits, .isPositive, .isLessOrEqual] : List Instr) → w = 1#32 ∨ w = 0#32)

/-! ## The integer family -/

/-- R58: bitwise AND. -/
def Obligations.BitAndIsTheBitwiseAnd : Prop :=
  decode 0x0#4 = .bitAnd ∧
  ∀ s : State, ∃ r : Word, exec .bitAnd s = .next { s with r := r } ∧
    ∀ i < 32, r.getLsbD i = (s.a.getLsbD i && s.b.getLsbD i)

/-- R60 with the byte numbering of R33: byte n of x, zero extended, for n in 0 to 3; outside, `Unspecified`. -/
def Obligations.GetByteExtractsAByte : Prop :=
  decode 0x1#4 = .getByte ∧
  (∀ s : State, 0 ≤ signed s.b → signed s.b ≤ 3 →
    ∃ r : Word, exec .getByte s = .next { s with r := r } ∧
      (∀ i < 8, r.getLsbD i = s.a.getLsbD (8 * (signed s.b).toNat + i)) ∧
      (∀ i, 8 ≤ i → r.getLsbD i = false) ∧ 0 ≤ signed r ∧ signed r ≤ 255) ∧
  (∀ (cfg : Config) (a b : Word), signed b < 0 ∨ 3 < signed b →
    transactionResult cfg 0x1#4 a b = .unspecified) ∧
  (∀ x : Word, Gives 0x1#4 x 0#32 (x &&& 0xFF#32)) ∧
  Gives 0x1#4 0x80FF7F01#32 3#32 0x80#32 ∧ Gives 0x1#4 (word (-1)) 3#32 0xFF#32 ∧
  Gives 0x1#4 0x12345678#32 1#32 0x56#32

/-- R62: right shift with zero fill for n in 0 to 31; outside, `Unspecified`. -/
def Obligations.LogicalShiftFillsWithZeros : Prop :=
  decode 0x2#4 = .logicalShift ∧
  (∀ s : State, 0 ≤ signed s.b → signed s.b ≤ 31 →
    ∃ r : Word, exec .logicalShift s = .next { s with r := r } ∧
      unsigned r = unsigned s.a / 2 ^ (signed s.b).toNat ∧
      ∀ i < 32, r.getLsbD i =
        if i + (signed s.b).toNat ≤ 31 then s.a.getLsbD (i + (signed s.b).toNat) else false) ∧
  (∀ (cfg : Config) (a b : Word), signed b < 0 ∨ 31 < signed b →
    transactionResult cfg 0x2#4 a b = .unspecified) ∧
  (∀ x : Word, Gives 0x2#4 x 0#32 x ∧ Gives 0x2#4 x 31#32 (boolWord (x.getLsbD 31))) ∧
  (∀ x n w : Word, x.getLsbD 31 = false → sarWord x n = some w → Gives 0x2#4 x n w) ∧
  Gives 0x2#4 0x87654321#32 4#32 0x08765432#32

/-- R64: the number of 1 bits. -/
def Obligations.BitCountCountsTheOneBits : Prop :=
  decode 0x3#4 = .bitCount ∧
  (∀ s : State, ∃ r : Word, exec .bitCount s = .next { s with r := r } ∧
    unsigned r = (Finset.univ.filter fun i : Fin 32 => s.a.getLsbD i = true).card ∧
    0 ≤ signed r ∧ signed r ≤ 32) ∧
  (∀ b x : Word, Gives 0x3#4 x b 32#32 → x = word (-1)) ∧
  (∀ b : Word, Gives 0x3#4 0#32 b 0#32 ∧ Gives 0x3#4 (word (-1)) b 32#32 ∧
    Gives 0x3#4 0x80000000#32 b 1#32 ∧ Gives 0x3#4 5#32 b 2#32 ∧ Gives 0x3#4 7#32 b 3#32)

/-- R66: logical NOT. -/
def Obligations.BangTestsForZero : Prop :=
  decode 0x4#4 = .bang ∧
  (∀ s : State, ∃ r : Word, exec .bang s = .next { s with r := r } ∧
    ((∀ i < 32, s.a.getLsbD i = false) → r = 1#32) ∧
    ((∃ i < 32, s.a.getLsbD i = true) → r = 0#32)) ∧
  (∀ b : Word, Gives 0x4#4 0x80000000#32 b 0#32 ∧ Gives 0x4#4 (word (-1)) b 0#32 ∧
    Gives 0x4#4 1#32 b 0#32 ∧ Gives 0x4#4 3#32 b 0#32 ∧ Gives 0x4#4 0#32 b 1#32)

/-- R68: the minimum word, whatever stands on the operand ports. -/
def Obligations.TminIsTheMinimumWord : Prop :=
  decode 0x5#4 = .tmin ∧ signed 0x80000000#32 = -(2 ^ 31) ∧
  (∀ v : Word, signed 0x80000000#32 ≤ signed v) ∧
  ∀ s : State, exec .tmin s = .next { s with r := 0x80000000#32 }

/-- R70: whether x fits in an n-bit two's-complement field, for n in 1 to 32; outside, `Unspecified`. -/
def Obligations.FitsBitsTestsTheRange : Prop :=
  decode 0x6#4 = .fitsBits ∧
  (∀ s : State, 1 ≤ signed s.b → signed s.b ≤ 32 →
    ∃ r : Word, exec .fitsBits s = .next { s with r := r } ∧
      (r = 1#32 ∨ r = 0#32) ∧
      (r = 1#32 ↔ -(2 ^ ((signed s.b).toNat - 1) : Int) ≤ signed s.a ∧
        signed s.a ≤ 2 ^ ((signed s.b).toNat - 1) - 1) ∧
      (r = 1#32 ↔ ∀ i, (signed s.b).toNat - 1 ≤ i → i ≤ 31 → s.a.getLsbD i = s.a.getLsbD 31)) ∧
  (∀ (cfg : Config) (a b : Word), signed b < 1 ∨ 32 < signed b →
    transactionResult cfg 0x6#4 a b = .unspecified) ∧
  (∀ x : Word, Gives 0x6#4 x 32#32 1#32 ∧ (Gives 0x6#4 x 1#32 1#32 ↔ x = 0#32 ∨ x = word (-1))) ∧
  Gives 0x6#4 5#32 3#32 0#32 ∧ Gives 0x6#4 (word (-4)) 3#32 1#32

/-- R72: the quotient by 2^n rounded toward zero, for n in 0 to 30; outside, `Unspecified`. The quotient is
the unique one with a remainder smaller than 2^n that is zero or has the sign of x. -/
def Obligations.Divpwr2RoundsTowardZero : Prop :=
  decode 0x7#4 = .divpwr2 ∧
  (∀ s : State, 0 ≤ signed s.b → signed s.b ≤ 30 →
    ∃ r : Word, exec .divpwr2 s = .next { s with r := r } ∧
      (0 ≤ signed s.a → signed r = signed s.a / 2 ^ (signed s.b).toNat) ∧
      (signed s.a < 0 → signed r = -(-signed s.a / 2 ^ (signed s.b).toNat)) ∧
      ∀ q m : Int, signed s.a = q * 2 ^ (signed s.b).toNat + m ∧ |m| < 2 ^ (signed s.b).toNat ∧
          (m = 0 ∨ (0 < m ∧ 0 < signed s.a) ∨ (m < 0 ∧ signed s.a < 0)) ↔
        q = signed r ∧ m = signed s.a - signed r * 2 ^ (signed s.b).toNat) ∧
  (∀ (cfg : Config) (a b : Word), signed b < 0 ∨ 30 < signed b →
    transactionResult cfg 0x7#4 a b = .unspecified) ∧
  (∀ x : Word, Gives 0x7#4 x 0#32 x) ∧
  (∀ x n w : Word, 0 ≤ signed x → signed n ≤ 30 → sarWord x n = some w → Gives 0x7#4 x n w) ∧
  Gives 0x7#4 (word (-32)) 4#32 (word (-2)) ∧ Gives 0x7#4 (word (-33)) 4#32 (word (-2)) ∧
  Gives 0x7#4 (word (-31)) 4#32 (word (-1)) ∧ Gives 0x7#4 (word (-1)) 1#32 0#32 ∧
  Gives 0x7#4 (word (-1)) 30#32 0#32 ∧ Gives 0x7#4 0x80000000#32 30#32 (word (-2)) ∧
  Gives 0x7#4 0x80000000#32 1#32 0xC0000000#32 ∧ Gives 0x7#4 0x80000000#32 0#32 0x80000000#32 ∧
  Gives 0x7#4 15#32 1#32 7#32

/-- R74: two's-complement negation, the minimum word being its own. -/
def Obligations.NegateIsTwosComplement : Prop :=
  decode 0x8#4 = .negate ∧
  (∀ s : State, ∃ r : Word, exec .negate s = .next { s with r := r } ∧
    r = word (-signed s.a) ∧ unsigned r = (2 ^ 32 - unsigned s.a) % 2 ^ 32 ∧
    (s.a ≠ 0x80000000#32 → signed r = -signed s.a)) ∧
  (∀ b x : Word, Gives 0x8#4 x b x ↔ x = 0#32 ∨ x = 0x80000000#32) ∧
  (∀ b : Word, Gives 0x8#4 1#32 b (word (-1)))

/-- R76: strictly positive. -/
def Obligations.IsPositiveTestsTheSign : Prop :=
  decode 0x9#4 = .isPositive ∧
  (∀ s : State, ∃ r : Word, exec .isPositive s = .next { s with r := r } ∧
    r = boolWord (decide (0 < signed s.a)) ∧
    (r = 1#32 ↔ s.a.getLsbD 31 = false ∧ s.a ≠ 0#32)) ∧
  (∀ b : Word, Gives 0x9#4 0#32 b 0#32 ∧ Gives 0x9#4 0x80000000#32 b 0#32 ∧
    Gives 0x9#4 0x7FFFFFFF#32 b 1#32 ∧ Gives 0x9#4 1#32 b 1#32 ∧ Gives 0x9#4 (word (-1)) b 0#32)

/-- R78: signed less than or equal; operands of opposite sign are decided by sign alone. The spec marks the
corner values, but for the example, as its inference from the rule. -/
def Obligations.IsLessOrEqualComparesSigned : Prop :=
  decode 0xA#4 = .isLessOrEqual ∧
  (∀ s : State, ∃ r : Word, exec .isLessOrEqual s = .next { s with r := r } ∧
    r = boolWord (decide (signed s.a ≤ signed s.b)) ∧
    (s.a = s.b → r = 1#32) ∧
    (s.a.getLsbD 31 ≠ s.b.getLsbD 31 → (r = 1#32 ↔ s.a.getLsbD 31 = true))) ∧
  Gives 0xA#4 0x80000000#32 0x7FFFFFFF#32 1#32 ∧ Gives 0xA#4 0x7FFFFFFF#32 0x80000000#32 0#32 ∧
  Gives 0xA#4 (word (-1)) 0#32 1#32 ∧ Gives 0xA#4 0#32 (word (-1)) 0#32 ∧
  Gives 0xA#4 0#32 0x80000000#32 0#32 ∧ Gives 0xA#4 4#32 5#32 1#32

/-- R80: the index of the highest 1 bit of a positive word; otherwise `Unspecified`. The spec marks the corner
values, but for the example, as its inference from the rule. -/
def Obligations.Ilog2IsTheFloorOfTheLogarithm : Prop :=
  decode 0xB#4 = .ilog2 ∧
  (∀ s : State, 0 < signed s.a →
    ∃ p : Nat, exec .ilog2 s = .next { s with r := word p } ∧ p ≤ 30 ∧
      (2 ^ p : Int) ≤ signed s.a ∧ signed s.a < 2 ^ (p + 1) ∧
      s.a.getLsbD p = true ∧ ∀ i, p < i → s.a.getLsbD i = false) ∧
  (∀ (cfg : Config) (a b : Word), signed a ≤ 0 → transactionResult cfg 0xB#4 a b = .unspecified) ∧
  (∀ b : Word, Gives 0xB#4 1#32 b 0#32 ∧ Gives 0xB#4 0x7FFFFFFF#32 b 30#32 ∧
    Gives 0xB#4 0x40000000#32 b 30#32 ∧ Gives 0xB#4 0x3FFFFFFF#32 b 29#32 ∧ Gives 0xB#4 16#32 b 4#32)

/-- The laws the spec marks as its own inferences in R58, R64, R72 and R74: AND with 0, −1 and itself and its
commutativity, the count of the complement, no overflow in the quotient, and negation twice. -/
def Obligations.DerivedLawsOfTheIntegerFamily : Prop :=
  (∀ x y w : Word, Gives 0x0#4 x 0#32 0#32 ∧ Gives 0x0#4 x (word (-1)) x ∧ Gives 0x0#4 x x x ∧
    (Gives 0x0#4 x y w → Gives 0x0#4 y x w)) ∧
  (∀ x b v w : Word, Gives 0x3#4 x b v → Gives 0x3#4 (~~~x) b w → signed w = 32 - signed v) ∧
  (∀ x n w : Word, inDomain .divpwr2 x n = true → Gives 0x7#4 x n w → |signed w| ≤ |signed x|) ∧
  (∀ x b w : Word, Gives 0x8#4 x b w → Gives 0x8#4 w b x)

/-! ## The float family -/

/-- R86, R87: the fields of a pattern make it up, and every pattern is in exactly the class its exponent
field and mantissa say, whatever the sign. -/
def Obligations.PatternFieldsAndClasses : Prop :=
  ∀ u : Word,
    unsigned u = (signOf u).toNat * 2 ^ 31 + expOf u * 2 ^ 23 + manOf u ∧
    expOf u ≤ 255 ∧ manOf u ≤ 2 ^ 23 - 1 ∧
    (classOf u = .zero ↔ expOf u = 0 ∧ manOf u = 0) ∧
    (classOf u = .denormalized ↔ expOf u = 0 ∧ manOf u ≠ 0) ∧
    (classOf u = .normalized ↔ 1 ≤ expOf u ∧ expOf u ≤ 0xFE) ∧
    (classOf u = .infinity ↔ expOf u = 0xFF ∧ manOf u = 0) ∧
    (classOf u = .nan ↔ expOf u = 0xFF ∧ manOf u ≠ 0)

/-- The pattern ranges and the NaN test that R87 marks as derived: the low 31 bits decide the class. -/
def Obligations.LowBitsDecideTheClass : Prop :=
  ∀ u : Word,
    (classOf u = .zero ↔ unsigned (u &&& 0x7FFFFFFF#32) = 0) ∧
    (classOf u = .denormalized ↔
      1 ≤ unsigned (u &&& 0x7FFFFFFF#32) ∧ unsigned (u &&& 0x7FFFFFFF#32) ≤ 0x007FFFFF) ∧
    (classOf u = .normalized ↔
      0x00800000 ≤ unsigned (u &&& 0x7FFFFFFF#32) ∧ unsigned (u &&& 0x7FFFFFFF#32) ≤ 0x7F7FFFFF) ∧
    (classOf u = .infinity ↔ unsigned (u &&& 0x7FFFFFFF#32) = 0x7F800000) ∧
    (classOf u = .nan ↔ 0x7F800000 < unsigned (u &&& 0x7FFFFFFF#32))

/-- R92: bit 31 inverted and bits 30 to 0 unchanged, a NaN pattern returned as it is. -/
def Obligations.FloatNegFlipsTheSign : Prop :=
  decode 0xC#4 = .floatNeg ∧
  (∀ s : State, ∃ r : Word, exec .floatNeg s = .next { s with r := r } ∧
    (expOf s.a = 0xFF ∧ manOf s.a ≠ 0 → r = s.a) ∧
    (¬ (expOf s.a = 0xFF ∧ manOf s.a ≠ 0) →
      r.getLsbD 31 = !s.a.getLsbD 31 ∧ ∀ i < 31, r.getLsbD i = s.a.getLsbD i) ∧
    (unsigned (s.a &&& 0x7FFFFFFF#32) > 0x7F800000 → r = s.a) ∧
    (¬ unsigned (s.a &&& 0x7FFFFFFF#32) > 0x7F800000 → r = s.a ^^^ 0x80000000#32))

/-- R94: what round to nearest, ties to even, keeps of q when it drops k bits: a multiple of 2^k at most half
a unit away, and an even one where two are equally near; with nothing dropped, q. -/
def Obligations.RoundingIsToNearestEven : Prop :=
  (∀ q : Nat, roundNearestEven q 0 = q) ∧
  (∀ q k : Nat, 1 ≤ k →
    (q % 2 ^ k > 2 ^ (k - 1) → roundNearestEven q k = q / 2 ^ k + 1) ∧
    (q % 2 ^ k = 2 ^ (k - 1) → roundNearestEven q k = q / 2 ^ k + q / 2 ^ k % 2) ∧
    (q % 2 ^ k < 2 ^ (k - 1) → roundNearestEven q k = q / 2 ^ k) ∧
    2 * |((roundNearestEven q k * 2 ^ k : Nat) : Int) - q| ≤ 2 ^ k ∧
    (2 * |((roundNearestEven q k * 2 ^ k : Nat) : Int) - q| = 2 ^ k → roundNearestEven q k % 2 = 0))

/-- R95: the pattern by sign, exponent and rounded significand, with the bounds the rule gives them; the
result is a normalized pattern or +0. -/
def Obligations.FloatI2fBuildsThePattern : Prop :=
  decode 0xD#4 = .floatI2f ∧
  ∀ s : State,
    (signed s.a = 0 → exec .floatI2f s = .next { s with r := 0x00000000#32 }) ∧
    (signed s.a ≠ 0 → ∃ p q : Nat, ∃ r : Word, exec .floatI2f s = .next { s with r := r } ∧
      2 ^ p ≤ (signed s.a).natAbs ∧ (signed s.a).natAbs < 2 ^ (p + 1) ∧ p ≤ 31 ∧
      (p ≤ 23 → q = (signed s.a).natAbs * 2 ^ (23 - p) ∧ q < 2 ^ 24) ∧
      (23 < p → q = roundNearestEven (signed s.a).natAbs (p - 23) ∧ q ≤ 2 ^ 24) ∧
      2 ^ 23 ≤ q ∧
      r = word ((if signed s.a < 0 then 1 else 0) * 2 ^ 31 + (127 + p) * 2 ^ 23 + ((q : Int) - 2 ^ 23)) ∧
      127 ≤ expOf r ∧ expOf r ≤ 158 ∧ classOf r = .normalized)

/-- What "nearest" means in R95: no finite pattern stands for a number nearer to x than the result does, and
where another number is equally near the result's mantissa is even. The value of a denormalized or zero
pattern is the formula R88 marks as general knowledge (PRESUMED log 13). -/
def Obligations.FloatI2fIsNearest : Prop :=
  ∀ x : Word, ∃ q : ℚ, patternValue (floatI2fValue x) = .finite q ∧
    ∀ (u : Word) (q' : ℚ), patternValue u = .finite q' →
      |q - (signed x : ℚ)| ≤ |q' - (signed x : ℚ)| ∧
      (|q - (signed x : ℚ)| = |q' - (signed x : ℚ)| → q' = q ∨ manOf (floatI2fValue x) % 2 = 0)

/-- R97 for both values of `TWICE_FE`, and `exec` of the machine, whichever it is built with: the pattern of 2f by the
exponent field of f. -/
def Obligations.FloatTwiceByExponentField : Prop :=
  decode 0xE#4 = .floatTwice ∧
  (∀ (cfg : Config) (s : State), s.op = 0xE#4 →
    ∃ r : Word, stepWith cfg s = .next { s with r := r } ∧
      (cfg.twiceFe = config.twiceFe → exec .floatTwice s = .next { s with r := r }) ∧
      (expOf s.a = 0x00 → ∃ d, shlWord (s.a &&& 0x007FFFFF#32) 1#32 = some d ∧
        r = (s.a &&& 0x80000000#32) ||| d) ∧
      (expOf s.a = 0xFF → r = s.a) ∧
      (expOf s.a = 0xFE → cfg.twiceFe = .infinity → r = (s.a &&& 0x80000000#32) ||| 0x7F800000#32) ∧
      (expOf s.a = 0xFE → cfg.twiceFe = .carry → r = s.a + 0x00800000#32) ∧
      (1 ≤ expOf s.a → expOf s.a ≤ 0xFD →
        r = s.a + 0x00800000#32 ∧ expOf r = expOf s.a + 1 ∧ manOf r = manOf s.a ∧ signOf r = signOf s.a)) ∧
  (∀ s : State, ∃ r : Word, exec .floatTwice s = .next { s with r := r })

/-- The machine is built with `TWICE_FE = infinity` (DESIGN CHOICE log 6, following C1): doubling a pattern
with exponent field 0xFE gives the infinity of its sign, and the largest finite pattern gives +infinity. -/
def Obligations.FloatTwiceOverflowsToInfinity : Prop :=
  (∀ s : State, expOf s.a = 0xFE →
    ∃ r : Word, exec .floatTwice s = .next { s with r := r } ∧ classOf r = .infinity ∧ signOf r = signOf s.a) ∧
  (∀ b : Word, Gives 0xE#4 0x7F7FFFFF#32 b 0x7F800000#32 ∧ Gives 0xE#4 0xFF7FFFFF#32 b 0xFF800000#32)

/-- What R90 says of special patterns in the float family: a NaN passes through `float_neg` and `float_twice` in all 32 bits,
and none of the three float operations makes a NaN of anything else (with `TWICE_FE = infinity`, log 6). -/
def Obligations.NoFloatOperationMakesANaN : Prop :=
  (∀ (u : Word) (fe : TwiceFe), classOf u = .nan → floatNegValue u = u ∧ floatTwiceValue fe u = u) ∧
  (∀ u : Word, classOf u ≠ .nan →
    classOf (floatNegValue u) ≠ .nan ∧ classOf (floatTwiceValue .infinity u) ≠ .nan) ∧
  (∀ x : Word, classOf (floatI2fValue x) ≠ .nan)

/-- The properties of R99 and their consequences in terms of values: conversion is exact up to magnitude
2^24, negation negates every pattern that is not a NaN, the infinities included, and is its own inverse, and
doubling doubles up to exponent field 0xFD, denormalized patterns included, and leaves zero, infinity and NaN patterns
as they are. The values of the patterns that are not normalized are the formulas R88 marks as general
knowledge (PRESUMED log 13). -/
def Obligations.FloatOperationsMeanWhatTheySay : Prop :=
  (∀ x : Word, |signed x| ≤ 2 ^ 24 → patternValue (floatI2fValue x) = .finite (signed x)) ∧
  (∀ u : Word, floatNegValue (floatNegValue u) = u) ∧
  (∀ (u : Word) (q : ℚ), patternValue u = .finite q → patternValue (floatNegValue u) = .finite (-q)) ∧
  (∀ (u : Word) (negative : Bool), patternValue u = .infinity negative →
    patternValue (floatNegValue u) = .infinity (!negative)) ∧
  (∀ (u : Word) (fe : TwiceFe) (q : ℚ), expOf u ≤ 0xFD → patternValue u = .finite q →
    patternValue (floatTwiceValue fe u) = .finite (2 * q)) ∧
  (∀ (u : Word) (fe : TwiceFe), classOf u = .zero ∨ classOf u = .infinity ∨ classOf u = .nan →
    floatTwiceValue fe u = u)

/-! ## The reference datapaths -/

/-- R60, R61: the `getByte` datapath gives the functional result on the domain. -/
def Obligations.GetByteDatapathIsRight : Prop :=
  ∀ a b : Word, inDomain .getByte a b = true → evalLines a b getByteLines [] = some (getByteValue a b)

/-- R62, R63: the `logicalShift` datapath gives the functional result on the domain, n = 0 included. -/
def Obligations.LogicalShiftDatapathIsRight : Prop :=
  ∀ a b : Word, inDomain .logicalShift a b = true →
    evalLines a b logicalShiftLines [] = some (logicalShiftValue a b)

/-- R64, R65: the five parallel passes count the 1 bits. -/
def Obligations.BitCountDatapathIsRight : Prop :=
  ∀ a b : Word, evalLines a b bitCountLines [] = some (bitCountValue a)

/-- R66, R67, R76, R77: the `bang` and `isPositive` datapaths give their functional results. -/
def Obligations.ZeroAndSignTestDatapathsAreRight : Prop :=
  ∀ a b : Word, evalLines a b bangLines [] = some (bangValue a) ∧
    evalLines a b isPositiveLines [] = some (isPositiveValue a)

/-- R70, R71: the `fitsBits` datapath gives the functional result on the domain; with n = 0 it would shift by
32 and has no value (R83). -/
def Obligations.FitsBitsDatapathIsRight : Prop :=
  (∀ a b : Word, inDomain .fitsBits a b = true → evalLines a b fitsBitsLines [] = some (fitsBitsValue a b)) ∧
  (∀ a : Word, evalLines a 0#32 fitsBitsLines [] = none)

/-- R72, R73: the biased shift of the `divpwr2` datapath rounds toward zero. -/
def Obligations.Divpwr2DatapathIsRight : Prop :=
  ∀ a b : Word, inDomain .divpwr2 a b = true → evalLines a b divpwr2Lines [] = some (divpwr2Value a b)

/-- R78, R79: the `isLessOrEqual` datapath is right also where the difference wraps. -/
def Obligations.IsLessOrEqualDatapathIsRight : Prop :=
  ∀ a b : Word, evalLines a b isLessOrEqualLines [] = some (isLessOrEqualValue a b)

/-- R80, R81: the binary search of the `ilog2` datapath finds the highest 1 bit of a positive word. -/
def Obligations.Ilog2DatapathIsRight : Prop :=
  ∀ a b : Word, inDomain .ilog2 a b = true → evalLines a b ilog2Lines [] = some (ilog2Value a)

/-- R95, R96: the `float_i2f` datapath, with its loop and in its closed form, rounds to nearest even. -/
def Obligations.FloatI2fDatapathIsRight : Prop :=
  ∀ a : Word, floatI2fDatapath a = some (floatI2fValue a) ∧ floatI2fClosedDatapath a = some (floatI2fValue a)

/-- R82: on its domain every operation of the integer family has one result, whichever of its two
definitions is taken. -/
def Obligations.IntegerDatapathsMeetTheirResults : Prop :=
  ∀ (cfg : Config) (i : Instr) (a b : Word), familyOf i = .integer → inDomain i a b = true →
    datapathResult cfg i a b = functionalResult cfg i a b

/-- R100: the same of the three float operations, for every input and both values of `TWICE_FE`. -/
def Obligations.FloatDatapathsMeetTheirResults : Prop :=
  ∀ (cfg : Config) (i : Instr) (a b : Word), familyOf i = .float →
    datapathResult cfg i a b = functionalResult cfg i a b
end

