-- ==== Sys2Proof/Laws/Bits.lean ====
section
/-! SUPPORT. The notation of the rules in `BitVec`'s own terms. -/

namespace Sys2Proof.Machine

theorem unsigned_eq_toNat (v : Word) : unsigned v = v.toNat := rfl

theorem signed_eq_toInt (v : Word) : signed v = v.toInt := by
  have hm : v.getLsbD 31 = v.msb := by simp [BitVec.msb_eq_getLsbD_last]
  rw [signed, hm, BitVec.toInt_eq_msb_cond, unsigned]
  norm_num

theorem word_eq_ofInt (k : Int) : word k = BitVec.ofInt 32 k := by
  apply BitVec.eq_of_toNat_eq
  have h : 0 ≤ k % 2 ^ 32 := Int.emod_nonneg k (by norm_num)
  have h' : k % 2 ^ 32 < 2 ^ 32 := Int.emod_lt_of_pos k (by norm_num)
  simp only [word, BitVec.toNat_ofNat, BitVec.toNat_ofInt]
  omega

theorem signed_nonneg_iff (v : Word) : 0 ≤ signed v ↔ v.toNat < 2 ^ 31 := by
  rw [signed_eq_toInt, BitVec.toInt_eq_toNat_cond]
  have := v.isLt
  split <;> omega

/-- Inside 0 to 2^31 − 1 the two readings agree. -/
theorem signed_eq_unsigned_of_nonneg {v : Word} (h : 0 ≤ signed v) : signed v = (unsigned v : Int) := by
  have h' := (signed_nonneg_iff v).mp h
  rw [signed_eq_toInt, BitVec.toInt_eq_toNat_cond, unsigned]
  split <;> omega

theorem shiftable_iff (s : Word) : shiftable s = true ↔ s.toNat < 32 := by
  simp only [shiftable, Bool.and_eq_true, decide_eq_true_eq, signed_eq_toInt, BitVec.toInt_eq_toNat_cond]
  have := s.isLt
  split <;> omega

theorem shlWord_eq {s : Word} (v : Word) (h : s.toNat < 32) : shlWord v s = some (v <<< s.toNat) := by
  rw [shlWord, if_pos ((shiftable_iff s).mpr h), word_eq_ofInt]
  congr 1
  apply BitVec.eq_of_toNat_eq
  have : ((unsigned v : Int) * 2 ^ unsigned s) = ((v.toNat * 2 ^ s.toNat : Nat) : Int) := by
    simp [unsigned]
  rw [this, BitVec.ofInt_natCast, BitVec.toNat_ofNat, BitVec.toNat_shiftLeft, Nat.shiftLeft_eq]

theorem sarWord_eq {s : Word} (v : Word) (h : s.toNat < 32) : sarWord v s = some (v.sshiftRight s.toNat) := by
  rw [sarWord, if_pos ((shiftable_iff s).mpr h), word_eq_ofInt, signed_eq_toInt, unsigned]
  congr 1
  apply BitVec.eq_of_toInt_eq
  rw [BitVec.toInt_sshiftRight, Int.shiftRight_eq_div_pow, BitVec.toInt_ofInt]
  have h1 : -2 ^ 31 ≤ v.toInt / 2 ^ s.toNat := by
    have : -2 ^ 31 ≤ v.toInt := BitVec.le_toInt v
    have hp : (1 : Int) ≤ 2 ^ s.toNat := one_le_pow₀ (by norm_num)
    rw [Int.le_ediv_iff_mul_le (by positivity)]
    nlinarith
  have h2 : v.toInt / 2 ^ s.toNat < 2 ^ 31 := by
    have : v.toInt < 2 ^ 31 := BitVec.toInt_lt
    have hp : (1 : Int) ≤ 2 ^ s.toNat := one_le_pow₀ (by norm_num)
    rw [Int.ediv_lt_iff_lt_mul (by positivity)]
    nlinarith
  have : ((2 ^ s.toNat : Nat) : Int) = (2 : Int) ^ s.toNat := by norm_num
  rw [this, Int.bmod_eq_of_le] <;> norm_num at * <;> omega

theorem shlWord_none {s : Word} (v : Word) (h : ¬ s.toNat < 32) : shlWord v s = none := by
  rw [shlWord, if_neg (by simpa [shiftable_iff] using h)]

theorem sarWord_none {s : Word} (v : Word) (h : ¬ s.toNat < 32) : sarWord v s = none := by
  rw [sarWord, if_neg (by simpa [shiftable_iff] using h)]

theorem highestBitBelow_spec (m n : Nat) (hm : m < 2 ^ n) (h0 : 0 < m) :
    2 ^ highestBitBelow m n ≤ m ∧ m < 2 ^ (highestBitBelow m n + 1) := by
  induction n with
  | zero => omega
  | succ n ih =>
    rw [highestBitBelow]
    by_cases hb : m.testBit n = true
    · rw [if_pos hb]
      exact ⟨Nat.ge_two_pow_of_testBit hb, hm⟩
    · rw [if_neg hb]
      refine ih ?_
      by_contra hlt
      refine hb ?_
      rw [Nat.testBit_eq_decide_div_mod_eq]
      have hd : m / 2 ^ n = 1 := by
        apply Nat.div_eq_of_lt_le <;> rw [pow_succ] at hm <;> omega
      simp [hd]

/-- The two bounds that name the highest 1 bit of a positive number of at most 32 bits. -/
theorem highestBit_spec (m : Nat) (hm : m < 2 ^ 32) (h0 : 0 < m) :
    2 ^ highestBit m ≤ m ∧ m < 2 ^ (highestBit m + 1) :=
  highestBitBelow_spec m 32 hm h0

end Sys2Proof.Machine
end

