-- ==== Sys2Proof/Laws/Datapath.lean ====
section
/-! SUPPORT. Each integer datapath as the sequence of its lines: the evaluator unfolded once. -/

namespace Sys2Proof.Machine

theorem bitAndLines_eval (a b : Word) : evalLines a b bitAndLines [] = some (~~~(~~~a ||| ~~~b)) := rfl

theorem negateLines_eval (a b : Word) : evalLines a b negateLines [] = some (~~~a + 1#32) := rfl

theorem tminLines_eval (a b : Word) : evalLines a b tminLines [] = shlWord 1#32 31#32 := rfl

theorem bangLines_eval (a b : Word) : evalLines a b bangLines [] = bangWord a := by
  simp [evalLines, bangLines, bangWord, evalExpr]

theorem getByteLines_eval (a b : Word) :
    evalLines a b getByteLines [] = (do
      let s ← shlWord b 3#32
      let v ← sarWord a s
      some (v &&& 0xFF#32)) := by
  simp [evalLines, getByteLines, evalExpr]

theorem logicalShiftLines_eval (a b : Word) :
    evalLines a b logicalShiftLines [] = (do
      let top ← shlWord 1#32 31#32
      let t ← sarWord top b
      let u ← shlWord t 1#32
      let v ← sarWord a b
      some (v &&& ~~~u)) := by
  simp [evalLines, logicalShiftLines, evalExpr, Option.bind_assoc]

theorem bitCountLines_eval (a b : Word) :
    evalLines a b bitCountLines [] = (do
      let s1 ← sarWord a 1#32
      let v1 := (a &&& 0x55555555#32) + (s1 &&& 0x55555555#32)
      let s2 ← sarWord v1 2#32
      let v2 := (v1 &&& 0x33333333#32) + (s2 &&& 0x33333333#32)
      let s4 ← sarWord v2 4#32
      let v4 := (v2 &&& 0x0F0F0F0F#32) + (s4 &&& 0x0F0F0F0F#32)
      let s8 ← sarWord v4 8#32
      let v8 := (v4 &&& 0x00FF00FF#32) + (s8 &&& 0x00FF00FF#32)
      let s16 ← sarWord v8 16#32
      some ((v8 &&& 0x0000FFFF#32) + (s16 &&& 0x0000FFFF#32))) := by
  simp [evalLines, bitCountLines, bitCountPass, evalExpr, Option.bind_assoc]

theorem fitsBitsLines_eval (a b : Word) :
    evalLines a b fitsBitsLines [] = (do
      let s := 33#32 + ~~~b
      let t ← shlWord a s >>= fun u => sarWord u s
      bangWord (a ^^^ t)) := by
  simp [evalLines, fitsBitsLines, evalExpr]

theorem divpwr2Lines_eval (a b : Word) :
    evalLines a b divpwr2Lines [] = (do
      let sign ← sarWord a 31#32
      let bias ← shlWord 1#32 b >>= fun one => some (one + ~~~0#32)
      sarWord (a + (sign &&& bias)) b) := by
  simp [evalLines, divpwr2Lines, evalExpr]

theorem isPositiveLines_eval (a b : Word) :
    evalLines a b isPositiveLines [] = (do
      let neg ← sarWord a 31#32
      let zero ← bangWord a
      bangWord (neg ||| zero)) := by
  simp [evalLines, isPositiveLines, evalExpr]

theorem isLessOrEqualLines_eval (a b : Word) :
    evalLines a b isLessOrEqualLines [] = (do
      let ta ← sarWord a 31#32
      let tb ← sarWord b 31#32
      let td ← sarWord (a + ~~~b) 31#32
      let sa := ta &&& 1#32
      let sb := tb &&& 1#32
      let diff := sa ^^^ sb
      some ((diff &&& (sb ^^^ 1#32)) ||| ((diff ^^^ 1#32) &&& (td &&& 1#32)))) := by
  simp [evalLines, isLessOrEqualLines, evalExpr, Option.bind_assoc]

theorem ilog2Lines_eval (a b : Word) :
    evalLines a b ilog2Lines [] = (do
      let s16 ← sarWord a 16#32 >>= bangWord >>= bangWord >>= fun t => shlWord t 4#32
      let v1 ← sarWord a s16
      let s8 ← sarWord v1 8#32 >>= bangWord >>= bangWord >>= fun t => shlWord t 3#32
      let v2 ← sarWord v1 s8
      let s4 ← sarWord v2 4#32 >>= bangWord >>= bangWord >>= fun t => shlWord t 2#32
      let v3 ← sarWord v2 s4
      let s2 ← sarWord v3 2#32 >>= bangWord >>= bangWord >>= fun t => shlWord t 1#32
      let v4 ← sarWord v3 s2
      let s1 ← sarWord v4 1#32 >>= bangWord >>= bangWord
      some (s16 + s8 + s4 + s2 + s1)) := by
  simp only [evalLines, ilog2Lines, evalExpr, Option.bind_eq_bind, Option.bind_some, List.nil_append,
    List.cons_append, List.getElem?_cons_zero, List.getElem?_cons_succ]

end Sys2Proof.Machine
end

