-- ==== Sys2Proof/Laws/Operands.lean ====
section
/-! SUPPORT. The domain of each operation (R56, R91) in the words of the table. -/

namespace Sys2Proof.Machine

@[simp] theorem inDomain_bitAnd (a b : Word) : inDomain .bitAnd a b = true := rfl
@[simp] theorem inDomain_bitCount (a b : Word) : inDomain .bitCount a b = true := rfl
@[simp] theorem inDomain_bang (a b : Word) : inDomain .bang a b = true := rfl
@[simp] theorem inDomain_tmin (a b : Word) : inDomain .tmin a b = true := rfl
@[simp] theorem inDomain_negate (a b : Word) : inDomain .negate a b = true := rfl
@[simp] theorem inDomain_isPositive (a b : Word) : inDomain .isPositive a b = true := rfl
@[simp] theorem inDomain_isLessOrEqual (a b : Word) : inDomain .isLessOrEqual a b = true := rfl
@[simp] theorem inDomain_floatNeg (a b : Word) : inDomain .floatNeg a b = true := rfl
@[simp] theorem inDomain_floatI2f (a b : Word) : inDomain .floatI2f a b = true := rfl
@[simp] theorem inDomain_floatTwice (a b : Word) : inDomain .floatTwice a b = true := rfl
@[simp] theorem inDomain_reserved (a b : Word) : inDomain .reserved a b = false := rfl

theorem inDomain_getByte (a b : Word) :
    inDomain .getByte a b = true ↔ 0 ≤ signed b ∧ signed b ≤ 3 := by
  simp [inDomain, wellFormed, readingOfA, readingOfB, Reading.admits]

theorem inDomain_logicalShift (a b : Word) :
    inDomain .logicalShift a b = true ↔ 0 ≤ signed b ∧ signed b ≤ 31 := by
  simp [inDomain, wellFormed, readingOfA, readingOfB, Reading.admits]

theorem inDomain_fitsBits (a b : Word) :
    inDomain .fitsBits a b = true ↔ 1 ≤ signed b ∧ signed b ≤ 32 := by
  simp [inDomain, wellFormed, readingOfA, readingOfB, Reading.admits]

theorem inDomain_divpwr2 (a b : Word) :
    inDomain .divpwr2 a b = true ↔ 0 ≤ signed b ∧ signed b ≤ 30 := by
  simp [inDomain, wellFormed, readingOfA, readingOfB, Reading.admits]

theorem inDomain_ilog2 (a b : Word) : inDomain .ilog2 a b = true ↔ 0 < signed a := by
  simp [inDomain, wellFormed, readingOfA, readingOfB, Reading.admits]

end Sys2Proof.Machine
end

