-- ==== Sys2Proof/Laws/Ops.lean ====
section
/-! SUPPORT. Everything the shared operations can do, said once. -/

namespace Sys2Proof.Machine

theorem config_unspec : config.unspec = .draw := rfl

@[simp] theorem respond_val (cfg : Config) (w : Word) (s : State) :
    respond cfg (.val w) s = .next (s.setResult w) := rfl

theorem respond_unspecified (s : State) : respond config .unspecified s = .next s.takeDraw := rfl

/-- The two ways an answer can complete. -/
theorem respond_next {cfg : Config} {res : Result} {s t : State} (h : respond cfg res s = .next t) :
    (∃ w, res = .val w ∧ t = s.setResult w) ∨
      (res = .unspecified ∧ cfg.unspec = .draw ∧ t = s.takeDraw) := by
  cases res with
  | val w => exact .inl ⟨w, rfl, (Host.Outcome.next.inj h).symm⟩
  | unspecified =>
    refine .inr ⟨rfl, ?_⟩
    simp only [respond] at h
    split at h
    · exact ⟨‹_›, (Host.Outcome.next.inj h).symm⟩
    · cases h

/-- A meaning inside its domain. -/
theorem perform_of_inDomain {i : Instr} {s : State} (v : Word) (h : inDomain i s.a s.b = true) :
    perform i v s = .next (s.setResult v) := by
  rw [perform, if_pos h, respond_val]

/-- A meaning outside its domain. -/
theorem perform_of_outside {i : Instr} {s : State} (v : Word) (h : inDomain i s.a s.b = false) :
    perform i v s = .next s.takeDraw := by
  rw [perform, if_neg (by simp [h]), respond_unspecified]

/-- An operation inside its domain completes with its functional result. -/
theorem exec_of_inDomain {i : Instr} {s : State} (h : inDomain i s.a s.b = true) :
    ∃ w, functionalResult config i s.a s.b = some w ∧ exec i s = .next (s.setResult w) := by
  cases i with
  | reserved => simp [inDomain, wellFormed] at h
  | _ => exact ⟨_, rfl, perform_of_inDomain _ h⟩

/-- Outside its domain it completes with a free word. -/
theorem exec_of_outside {i : Instr} {s : State} (h : inDomain i s.a s.b = false) :
    exec i s = .next s.takeDraw := by
  cases i with
  | reserved => rfl
  | _ => exact perform_of_outside _ h

end Sys2Proof.Machine
end

