-- ==== Sys2Proof/Laws/PerInstr.lean ====
section
/-! SUPPORT. Facts about every instruction as syntax, one lemma per constructor. -/

namespace Sys2Proof.Laws

open Sys2Proof.Machine

/-- 30_encoding.md R43: an operation with a second argument has a first, and none has more than two. -/
def PortUse.Statement (i : Instr) : Prop :=
  (readingOfB i ≠ .ignored → readingOfA i ≠ .ignored) ∧ argumentCount i ≤ 2

theorem PortUse.bitAnd : PortUse.Statement .bitAnd := by unfold PortUse.Statement; decide
theorem PortUse.getByte : PortUse.Statement .getByte := by unfold PortUse.Statement; decide
theorem PortUse.logicalShift : PortUse.Statement .logicalShift := by unfold PortUse.Statement; decide
theorem PortUse.bitCount : PortUse.Statement .bitCount := by unfold PortUse.Statement; decide
theorem PortUse.bang : PortUse.Statement .bang := by unfold PortUse.Statement; decide
theorem PortUse.tmin : PortUse.Statement .tmin := by unfold PortUse.Statement; decide
theorem PortUse.fitsBits : PortUse.Statement .fitsBits := by unfold PortUse.Statement; decide
theorem PortUse.divpwr2 : PortUse.Statement .divpwr2 := by unfold PortUse.Statement; decide
theorem PortUse.negate : PortUse.Statement .negate := by unfold PortUse.Statement; decide
theorem PortUse.isPositive : PortUse.Statement .isPositive := by unfold PortUse.Statement; decide
theorem PortUse.isLessOrEqual : PortUse.Statement .isLessOrEqual := by unfold PortUse.Statement; decide
theorem PortUse.ilog2 : PortUse.Statement .ilog2 := by unfold PortUse.Statement; decide
theorem PortUse.floatNeg : PortUse.Statement .floatNeg := by unfold PortUse.Statement; decide
theorem PortUse.floatI2f : PortUse.Statement .floatI2f := by unfold PortUse.Statement; decide
theorem PortUse.floatTwice : PortUse.Statement .floatTwice := by unfold PortUse.Statement; decide
theorem PortUse.reserved : PortUse.Statement .reserved := by unfold PortUse.Statement; decide

end Sys2Proof.Laws
end

