-- ==== Sys2Proof/Laws/State.lean ====
section
/-! SUPPORT. Each field after each update of the ports. -/

namespace Sys2Proof.Machine

@[simp] theorem State.drive_block (s : State) (op : Code) (a b : Word) :
    (s.drive op a b).block = s.block := rfl
@[simp] theorem State.drive_op (s : State) (op : Code) (a b : Word) : (s.drive op a b).op = op := rfl
@[simp] theorem State.drive_a (s : State) (op : Code) (a b : Word) : (s.drive op a b).a = a := rfl
@[simp] theorem State.drive_b (s : State) (op : Code) (a b : Word) : (s.drive op a b).b = b := rfl
@[simp] theorem State.drive_r (s : State) (op : Code) (a b : Word) :
    (s.drive op a b).r = Config.freeWord s.draws := rfl
@[simp] theorem State.drive_draws (s : State) (op : Code) (a b : Word) :
    (s.drive op a b).draws = s.draws + 1 := rfl

@[simp] theorem State.setResult_block (s : State) (w : Word) :
    (s.setResult w).block = s.block := rfl
@[simp] theorem State.setResult_op (s : State) (w : Word) : (s.setResult w).op = s.op := rfl
@[simp] theorem State.setResult_a (s : State) (w : Word) : (s.setResult w).a = s.a := rfl
@[simp] theorem State.setResult_b (s : State) (w : Word) : (s.setResult w).b = s.b := rfl
@[simp] theorem State.setResult_r (s : State) (w : Word) : (s.setResult w).r = w := rfl
@[simp] theorem State.setResult_draws (s : State) (w : Word) : (s.setResult w).draws = s.draws := rfl

@[simp] theorem State.takeDraw_block (s : State) :
    s.takeDraw.block = s.block := rfl
@[simp] theorem State.takeDraw_op (s : State) : s.takeDraw.op = s.op := rfl
@[simp] theorem State.takeDraw_a (s : State) : s.takeDraw.a = s.a := rfl
@[simp] theorem State.takeDraw_b (s : State) : s.takeDraw.b = s.b := rfl
@[simp] theorem State.takeDraw_r (s : State) : s.takeDraw.r = Config.freeWord s.draws := rfl
@[simp] theorem State.takeDraw_draws (s : State) : s.takeDraw.draws = s.draws + 1 := rfl

@[simp] theorem State.withFetchWord_block (s : State) (nbits w : Nat) :
    (s.withFetchWord nbits w).block = s.block := rfl
@[simp] theorem State.withFetchWord_op (s : State) (nbits w : Nat) :
    (s.withFetchWord nbits w).op = BitVec.ofNat 4 w := rfl
@[simp] theorem State.withFetchWord_a (s : State) (nbits w : Nat) : (s.withFetchWord nbits w).a = s.a := rfl
@[simp] theorem State.withFetchWord_b (s : State) (nbits w : Nat) : (s.withFetchWord nbits w).b = s.b := rfl
@[simp] theorem State.withFetchWord_r (s : State) (nbits w : Nat) : (s.withFetchWord nbits w).r = s.r := rfl
@[simp] theorem State.withFetchWord_draws (s : State) (nbits w : Nat) :
    (s.withFetchWord nbits w).draws = s.draws := rfl

end Sys2Proof.Machine
end

