-- ==== Sys2Proof/Laws/Safety.lean ====
section
/-! SUPPORT. What a transaction gives, in terms of the transaction function. -/

namespace Sys2Proof.Machine

theorem transactionResult_eq_val {cfg : Config} {c : Code} {a b w : Word}
    (h : transactionResult cfg c a b = .val w) :
    inDomain (decode c) a b = true ∧ functionalResult cfg (decode c) a b = some w := by
  unfold transactionResult at h
  split at h
  · cases h
  · split at h
    · exact ⟨‹_›, by rw [‹functionalResult _ _ _ _ = _›, Result.val.inj h]⟩
    · cases h

/-- A transaction gives a word exactly where the transaction function does. -/
theorem gives_iff (c : Code) (a b w : Word) :
    Gives c a b w ↔ transactionResult config c a b = .val w := by
  by_cases hd : inDomain (decode c) a b = true
  · have key : ∀ s : State, s.op = c → s.a = a → s.b = b →
        ∃ v, functionalResult config (decode c) a b = some v ∧ step s = .next (s.setResult v) := by
      rintro s rfl rfl rfl
      exact exec_of_inDomain hd
    constructor
    · intro h
      obtain ⟨v, hv, hs⟩ := key ⟨{}, c, a, b, 0#32, 0⟩ rfl rfl rfl
      have hr := congrArg State.r (Host.Outcome.next.inj (hs.symm.trans (h _ rfl rfl rfl)))
      simp only [State.setResult_r] at hr
      simp [transactionResult, hv, hd, hr]
    · intro h s h1 h2 h3
      obtain ⟨v, hv, hs⟩ := key s h1 h2 h3
      have hw := (transactionResult_eq_val h).2
      rw [hv] at hw
      rw [hs, Option.some.inj hw]
      rfl
  · constructor
    · intro h
      have h1 := h ⟨{}, c, a, b, 0#32, 0⟩ rfl rfl rfl
      have h2 : step ⟨{}, c, a, b, 0#32, 0⟩ = .next (State.takeDraw ⟨{}, c, a, b, 0#32, 0⟩) :=
        exec_of_outside (by simpa using hd)
      have h3 := congrArg State.draws (Host.Outcome.next.inj (h1.symm.trans h2))
      simp at h3
    · intro h
      exact absurd (transactionResult_eq_val h).1 hd

end Sys2Proof.Machine
end

