-- ==== Sys2Proof/Tests/Slice0.lean ====
section
/-! SUPPORT. Own tests. Expected words are those of 95_test_vectors.md (its section and row are named) or of
the rule cited. The witnesses at the end show that the hypotheses of the statements can be met. -/

namespace Sys2Proof.Tests

open Sys2Proof Sys2Proof.Machine

/-! ## Well-formedness, decoding and written forms -/

theorem test_reserved_is_ill_formed : wellFormed .reserved = false := by decide
theorem test_fifteen_operations : (Instr.all.filter wellFormed).length = nops := by decide
theorem test_wide_number_is_no_code : decodeNumber 16 = .error .notACode := by decide
/-- R44, the row of an integer operation. -/
theorem test_decode_integer_code : decode 0b1011#4 = .ilog2 := by decide
/-- R44, the row of a float operation. -/
theorem test_decode_float_code : decodeTableWord 8 0b1100 = some .floatNeg := by decide
/-- R51, its example. -/
theorem test_transaction_word :
    Transaction.toWord { op := 0x1#4, a := 0x12345678#32, b := 1#32 } = 0x11234567800000001#68 := by decide
/-- R52: `-1` is 0xFFFFFFFF, and a decimal beyond 32 bits is no constant. -/
theorem test_decimal_constant :
    (Constant.decimal (-1)).toWord = some 0xFFFFFFFF#32 ∧ (Constant.decimal (2 ^ 32)).toWord = none := by decide
/-- R52: a call with a count. -/
theorem test_call_transaction :
    (Call.mk .fitsBits [.decimal (-4), .decimal 3]).transaction =
      some { op := 0x6#4, a := 0xFFFFFFFC#32, b := 3#32 } := by decide

/-! ## One transaction -/

/-- The word sampled after one step with a transaction on the ports. -/
def once (op : Code) (a b : Word) : Option Word :=
  sampled (step { block := {}, op := op, a := a, b := b, r := 7#32, draws := 0 })

/-- The counter of free words after one step. -/
def drawsAfter (op : Code) (a b : Word) : Option Nat :=
  match step { block := {}, op := op, a := a, b := b, r := 7#32, draws := 0 } with
  | .next t => some t.draws
  | .fault _ => none
  | .refused _ => none

theorem test_bitAnd : once 0x0#4 0x0F0F0F0F#32 0x12345678#32 = some 0x02040608#32 := by decide
theorem test_getByte_top_byte_of_negative : once 0x1#4 0x80FF7F01#32 3#32 = some 0x80#32 := by decide
theorem test_getByte_outside : drawsAfter 0x1#4 0x12345678#32 0xFFFFFFFF#32 = some 1 := by decide
theorem test_logicalShift : once 0x2#4 0x87654321#32 4#32 = some 0x08765432#32 := by decide
theorem test_logicalShift_outside : drawsAfter 0x2#4 0x87654321#32 32#32 = some 1 := by decide
theorem test_bitCount : once 0x3#4 0x12345678#32 0xDEADBEEF#32 = some 0x0D#32 := by decide
theorem test_bitCount_all_ones : once 0x3#4 0xFFFFFFFF#32 0#32 = some 0x20#32 := by decide
theorem test_bang_minimum_word : once 0x4#4 0x80000000#32 0#32 = some 0#32 := by decide
theorem test_bang_zero : once 0x4#4 0#32 0#32 = some 1#32 := by decide
theorem test_tmin : once 0x5#4 0xDEADBEEF#32 0xCAFEF00D#32 = some 0x80000000#32 := by decide
theorem test_fitsBits_below_range : once 0x6#4 0xBFFFFFFF#32 31#32 = some 0#32 := by decide
theorem test_fitsBits_at_edge : once 0x6#4 0xC0000000#32 31#32 = some 1#32 := by decide
theorem test_divpwr2_rounds_up_from_below : once 0x7#4 0xFFFFFFDF#32 4#32 = some 0xFFFFFFFE#32 := by decide
theorem test_divpwr2_minimum_word : once 0x7#4 0x80000000#32 30#32 = some 0xFFFFFFFE#32 := by decide
theorem test_negate : once 0x8#4 0x12345678#32 0#32 = some 0xEDCBA988#32 := by decide
theorem test_negate_minimum_word : once 0x8#4 0x80000000#32 0#32 = some 0x80000000#32 := by decide
theorem test_isPositive_zero : once 0x9#4 0#32 0#32 = some 0#32 := by decide
theorem test_isPositive_largest : once 0x9#4 0x7FFFFFFF#32 0#32 = some 1#32 := by decide
theorem test_isLessOrEqual_wraps : once 0xA#4 0x7FFFFFFF#32 0x80000000#32 = some 0#32 := by decide
theorem test_isLessOrEqual_both_negative : once 0xA#4 0xFFFFFFFE#32 0xFFFFFFFF#32 = some 1#32 := by decide
theorem test_ilog2 : once 0xB#4 0x3FFFFFFF#32 0x12345678#32 = some 0x1D#32 := by decide
theorem test_ilog2_outside : drawsAfter 0xB#4 0x80000000#32 0#32 = some 1 := by decide
theorem test_floatNeg_infinity : once 0xC#4 0x7F800000#32 0#32 = some 0xFF800000#32 := by decide
theorem test_floatNeg_nan : once 0xC#4 0xFF800001#32 0#32 = some 0xFF800001#32 := by decide
theorem test_floatI2f_tie_carries : once 0xD#4 0x7FFFFFC0#32 0#32 = some 0x4F000000#32 := by decide
theorem test_floatI2f_negative : once 0xD#4 0x87654321#32 0#32 = some 0xCEF1357A#32 := by decide
theorem test_floatTwice_denormalized : once 0xE#4 0x807FFFFF#32 0#32 = some 0x80FFFFFE#32 := by decide
theorem test_floatTwice_overflow : once 0xE#4 0xFF7FFFFF#32 0#32 = some 0xFF800000#32 := by decide
theorem test_floatTwice_carry : floatTwiceValue .carry 0x7F000001#32 = 0x7F800001#32 := by decide
theorem test_reserved : drawsAfter 0xF#4 0x12345678#32 1#32 = some 1 := by decide

/-! ## The reference datapaths: traces of section 3 and the counts of R123 (log 12) -/

theorem test_ilog2_datapath : evalLines 0x7FFFFFFF#32 0#32 ilog2Lines [] = some 30#32 := by decide
theorem test_bitCount_datapath : evalLines 0x12345678#32 0#32 bitCountLines [] = some 0x0D#32 := by decide
theorem test_floatI2f_loop : normaliseLoop 32 0x01000003#32 0 = some (8, 0x300#32) := by decide
theorem test_operator_counts :
    Instr.all.filterMap (fun i => (integerDatapath i).map (operatorCount 1)) =
      [4, 3, 6, 20, 6, 1, 6, 7, 2, 4, 14, 27] := by decide
theorem test_operator_counts_expanded :
    [fitsBitsLines, isPositiveLines, ilog2Lines].map (operatorCount 6) = [11, 14, 77] := by decide

/-! ## Witnesses: states and operands that meet the statements' hypotheses, at the boundaries of each range -/

/-- A state with a transaction on the ports. -/
def st (op : Code) (a b : Word) : State :=
  { block := {}, op := op, a := a, b := b, r := 0#32, draws := 0 }

/-- Program 1 of section 4. -/
def program1 : List Line :=
  [{ op := .divpwr2, args := [.const 0xFFFFFFDF#32, .const 4#32] }, { op := .negate, args := [.result 0] },
   { op := .ilog2, args := [.result 1] }, { op := .fitsBits, args := [.result 0, .const 2#32] },
   { op := .isPositive, args := [.result 1] }, { op := .isLessOrEqual, args := [.result 0, .result 1] }]

/-- ScriptsCollectTheResultsOfTheRules: the end of program 1. -/
theorem witness_script_words :
    scriptWords config program1 [] = some [0xFFFFFFFE#32, 2#32, 1#32, 1#32, 1#32, 1#32] := by decide

/-- EarlierTransactionsDisturbNothing: a line that leaves its domain, then one that does not; and
EveryStepSettlesTheOutput for a script. -/
theorem witness_script_after_free_word :
    runScript [{ op := .ilog2, args := [.const 0#32] }] State.reset [] =
        .ok ((State.reset.drive 0xB#4 0#32 0#32).takeDraw, [Config.freeWord 1]) ∧
      (Line.mk .bitCount [.const 5#32]).transaction [Config.freeWord 1] =
        some { op := 0x3#4, a := 5#32, b := 0#32 } ∧
      transactionResult config 0x3#4 5#32 0#32 = .val 2#32 :=
  ⟨rfl, rfl, by decide⟩

/-- EveryTransactionCompletes, OutcomesAreCompletionsOrTheRefusal: a script that stops at a line. -/
theorem witness_bad_line :
    runScript [{ op := .tmin, args := [.const 0#32] }] State.reset [] = .error (.badLine 0) := rfl

/-- DecodeIsTheOperationMap, StepRunsTheDecodedOperation. -/
theorem witness_well_formed :
    wellFormed .floatTwice = true ∧ (0xE#4 ≠ 0xF#4) ∧ (st 0xE#4 0#32 0#32).op = encode .floatTwice ∧
      decodeTableWord 4 0xE = some .floatTwice := by decide

/-- TransactionWordCarriesTheTransaction: an ignored port of each kind. -/
theorem witness_ignored_port :
    readingOfA (decode 0x5#4) = .ignored ∧ readingOfB (decode 0xE#4) = .ignored ∧
      inDomain .floatTwice 0#32 0#32 = true := by decide

/-- StepIsTheTransactionFunction: the reserved code, inside a domain, outside one. -/
theorem witness_transaction_cases :
    decode (st 0xF#4 0#32 0#32).op = .reserved ∧ decode (st 0x1#4 0#32 3#32).op ≠ .reserved ∧
      inDomain (decode 0x1#4) 0#32 3#32 = true ∧ inDomain (decode 0x1#4) 0#32 4#32 = false := by decide

/-- TransactionsLeaveThePortsAlone, EveryStepSettlesTheOutput, EvaluationIsIdempotent: completions inside and
outside the domain. -/
theorem witness_completions :
    exec .getByte (st 0x1#4 0#32 3#32) = .next (st 0x1#4 0#32 3#32) ∧
      step (st 0x1#4 0#32 3#32) = .next (st 0x1#4 0#32 3#32) ∧
      (st 0x1#4 0#32 3#32).hostDutyMet = true ∧
      exec .getByte (st 0x1#4 0#32 4#32) = .next (st 0x1#4 0#32 4#32).takeDraw :=
  ⟨rfl, rfl, rfl, rfl⟩

/-- EqualTransactionsGiveEqualResults: two different states with one transaction. -/
theorem witness_two_states :
    (st 0x1#4 5#32 0#32) ≠ State.takeDraw (st 0x1#4 5#32 0#32) ∧
      (st 0x1#4 5#32 0#32).op = (State.takeDraw (st 0x1#4 5#32 0#32)).op ∧
      (st 0x1#4 5#32 0#32).hostDutyMet = true := by
  refine ⟨fun h => ?_, rfl, rfl⟩
  have := congrArg State.draws h
  simp [st] at this

/-- BlockHoldsNoState: two different states with one transaction on the ports and one word on offer, and a
transaction with a result. -/
theorem witness_same_offer :
    (st 0x1#4 5#32 9#32) ≠ State.setResult (st 0x1#4 5#32 9#32) 1#32 ∧
      (st 0x1#4 5#32 9#32).transaction = (State.setResult (st 0x1#4 5#32 9#32) 1#32).transaction ∧
      Config.freeWord (st 0x1#4 5#32 9#32).draws =
        Config.freeWord (State.setResult (st 0x1#4 5#32 9#32) 1#32).draws ∧
      transactionResult config 0x1#4 5#32 3#32 ≠ .unspecified :=
  ⟨by decide, rfl, rfl, by decide⟩

/-- OutsideTheDomainTheResultIsFree and the `Unspecified` clauses: one operand below and one above each
range. -/
theorem witness_outside :
    (signed 0xFFFFFFFF#32 < 0) ∧ 3 < signed 4#32 ∧ 31 < signed 32#32 ∧ signed 0#32 < 1 ∧ 32 < signed 33#32 ∧
      30 < signed 31#32 ∧ signed 0#32 ≤ 0 ∧ signed 0x80000000#32 ≤ 0 := by decide

/-- The counts at both ends of each domain, for the result and datapath statements and for the shifts. -/
theorem witness_inside :
    inDomain .getByte 0#32 0#32 = true ∧ inDomain .getByte 0#32 3#32 = true ∧
      inDomain .logicalShift 0#32 0#32 = true ∧ inDomain .logicalShift 0#32 31#32 = true ∧
      inDomain .fitsBits 0#32 1#32 = true ∧ inDomain .fitsBits 0#32 32#32 = true ∧
      inDomain .divpwr2 0#32 0#32 = true ∧ inDomain .divpwr2 0#32 30#32 = true ∧
      inDomain .ilog2 1#32 0#32 = true ∧ inDomain .ilog2 0x7FFFFFFF#32 0#32 = true ∧
      0 ≤ signed 0#32 ∧ signed 31#32 ≤ 31 := by decide

/-- ReservedCodeResultIsFree: a block that refuses. OutcomesAreCompletionsOrTheRefusal: what it then answers. -/
theorem witness_refusing_block :
    (st 0xF#4 0#32 0#32).op = 0xF#4 ∧ (Config.mk .infinity .refuse).unspec = .refuse ∧
      transact (Config.mk .infinity .refuse) 5#32 {} (st 0xF#4 0#32 0#32).transaction = none ∧
      transact config 5#32 {} (st 0xF#4 0#32 0#32).transaction = some (5#32, {}) := by decide

/-- UnspecDecidesOnlyUnspecifiedResults and ResultsReadAsTheTableSays: a result the rules give. -/
theorem witness_result :
    transactionResult (Config.mk .carry .refuse) (encode .bang) 3#32 0#32 = .val 0#32 ∧
      Instr.bang ∈ ([.bang, .fitsBits, .isPositive, .isLessOrEqual] : List Instr) := by decide

/-- TwiceFeDecidesOnlyOneCase, FloatTwiceByExponentField, FloatTwiceOverflowsToInfinity: each exponent field
at the boundaries of its clause, and the excluded case. -/
theorem witness_exponents :
    expOf 0x007FFFFF#32 = 0 ∧ expOf 0x00800000#32 = 1 ∧ expOf 0x7EFFFFFF#32 = 0xFD ∧ expOf 0x7F000000#32 = 0xFE ∧
      manOf 0x7F000000#32 = 0 ∧ expOf 0x7F7FFFFF#32 = 0xFE ∧ manOf 0x7F7FFFFF#32 ≠ 0 ∧
      expOf 0x7F800000#32 = 0xFF ∧ (st 0xE#4 0x7F000000#32 0#32).op = 0xE#4 := by decide

/-- Both values of `TWICE_FE`. -/
theorem witness_twiceFe :
    config.twiceFe = .infinity ∧ (Config.mk .carry .draw).twiceFe = .carry := by decide

/-- LogicalShiftFillsWithZeros and Divpwr2RoundsTowardZero, their clauses on `>>a`; ShiftsMoveBits. -/
theorem witness_shift : sarWord 0x80000000#32 31#32 = some 0xFFFFFFFF#32 ∧
    (0x7FFFFFFF#32 : Word).getLsbD 31 = false ∧ sarWord 0x7FFFFFFF#32 31#32 = some 0#32 ∧
    0 ≤ signed 0x7FFFFFFF#32 ∧ signed 30#32 ≤ 30 ∧ sarWord 0x7FFFFFFF#32 30#32 = some 1#32 := by decide

/-- The `Gives` hypotheses of BitCountCountsTheOneBits and DerivedLawsOfTheIntegerFamily. -/
theorem witness_gives :
    Gives 0x3#4 0xFFFFFFFF#32 0#32 32#32 ∧ Gives 0x3#4 (~~~0xFFFFFFFF#32) 0#32 0#32 ∧
      Gives 0x0#4 5#32 3#32 1#32 ∧ Gives 0x7#4 0x80000000#32 0#32 0x80000000#32 ∧
      Gives 0x8#4 1#32 0#32 0xFFFFFFFF#32 := by
  simp only [gives_iff]
  decide

/-- BangTestsForZero, IsLessOrEqualComparesSigned, NegateIsTwosComplement, Divpwr2RoundsTowardZero: operands on
either side of each condition. -/
theorem witness_operands :
    (∀ i < 32, (0#32 : Word).getLsbD i = false) ∧ (∃ i < 32, (0x80000000#32 : Word).getLsbD i = true) ∧
      (0x80000000#32 : Word).getLsbD 31 ≠ (0x7FFFFFFF#32 : Word).getLsbD 31 ∧
      (0x7FFFFFFF#32 : Word) ≠ 0x80000000#32 ∧ 0 ≤ signed 0#32 ∧ signed 0x80000000#32 < 0 := by
  refine ⟨by decide, ⟨31, by decide⟩, by decide, by decide, by decide, by decide⟩

/-- FloatNegFlipsTheSign, NoFloatOperationMakesANaN: a NaN at the lower boundary, and infinity beside it. -/
theorem witness_nan :
    classOf 0x7F800001#32 = .nan ∧ manOf 0x7F800001#32 ≠ 0 ∧ classOf 0x7F800000#32 ≠ .nan ∧
      unsigned (0xFF800001#32 &&& 0x7FFFFFFF#32) > 0x7F800000 ∧
      ¬ unsigned (0xFF800000#32 &&& 0x7FFFFFFF#32) > 0x7F800000 ∧ classOf 0x80000000#32 = .zero ∧
      classOf 0x7F800000#32 = .infinity := by decide

/-- RoundingIsToNearestEven: below, at and above halfway, and an exact tie. -/
theorem witness_rounding :
    5 % 2 ^ 3 > 2 ^ (3 - 1) ∧ 12 % 2 ^ 3 = 2 ^ (3 - 1) ∧ 3 % 2 ^ 3 < 2 ^ (3 - 1) ∧ roundNearestEven 12 3 = 2 ∧
      2 * |((roundNearestEven 12 3 * 2 ^ 3 : Nat) : Int) - 12| = 2 ^ 3 := by decide

/-- FloatI2fBuildsThePattern: zero, the exponents 23 and 24 on either side of rounding, and the minimum word. -/
theorem witness_i2f :
    signed 0#32 = 0 ∧ signed 0x00FFFFFF#32 ≠ 0 ∧ highestBit 0x00FFFFFF = 23 ∧ highestBit 0x01000000 = 24 ∧
      signed 0x80000000#32 ≠ 0 ∧ highestBit (signed 0x80000000#32).natAbs = 31 := by decide

/-- FloatOperationsMeanWhatTheySay, FloatI2fIsNearest: a word at the bound, and a finite pattern. -/
theorem witness_values :
    |signed 0xFF000000#32| ≤ 2 ^ 24 ∧ expOf 0#32 ≤ 0xFD ∧ patternValue 0xFF800000#32 = .infinity true ∧
      patternValue 0#32 = .finite 0 := by
  refine ⟨by decide, by decide, rfl, ?_⟩
  have h : classOf 0#32 = .zero := by decide
  have hm : manOf 0#32 = 0 := by decide
  simp [patternValue, h, hm]

/-- IntegerDatapathsMeetTheirResults, FloatDatapathsMeetTheirResults. -/
theorem witness_families :
    familyOf .ilog2 = .integer ∧ inDomain .ilog2 1#32 0#32 = true ∧ familyOf .floatI2f = .float := by decide

end Sys2Proof.Tests
end

section
/-! PROOFS. The statements of 00_scope.md: the readings of a word and the primitive shifts (R10, R13 to R15),
what a transaction leaves unchanged (R17), and what the parameter `UNSPEC` decides (R8). -/

namespace Sys2Proof.Machine

/-! ## The readings of a word (R10) -/

/-- The low n bits of a number are worth the sum of their weights. -/
theorem mod_two_pow_eq_sum_testBit (m n : Nat) :
    m % 2 ^ n = ∑ i ∈ Finset.range n, (m.testBit i).toNat * 2 ^ i := by
  induction n with
  | zero => simp [Nat.mod_one]
  | succ n ih => rw [Nat.mod_pow_succ, Finset.sum_range_succ, ih, Nat.toNat_testBit, Nat.mul_comm]

theorem unsigned_eq_sum_bits (v : Word) :
    unsigned v = ∑ i : Fin 32, (v.getLsbD i).toNat * 2 ^ (i : Nat) := by
  rw [Fin.sum_univ_eq_sum_range fun i => (v.getLsbD i).toNat * 2 ^ i]
  calc unsigned v = v.toNat % 2 ^ 32 := (Nat.mod_eq_of_lt v.isLt).symm
    _ = _ := mod_two_pow_eq_sum_testBit v.toNat 32

theorem signed_bounds (v : Word) : -(2 ^ 31) ≤ signed v ∧ signed v ≤ 2 ^ 31 - 1 := by
  rw [signed_eq_toInt]
  exact ⟨BitVec.le_toInt v, Int.le_sub_one_of_lt BitVec.toInt_lt⟩

theorem unsigned_word (k : Int) : (unsigned (word k) : Int) = k % 2 ^ 32 := by
  have hk : 0 ≤ k % 2 ^ 32 := Int.emod_nonneg k (by norm_num)
  rw [word_eq_ofInt, unsigned_eq_toNat, BitVec.toNat_ofInt]
  exact Int.toNat_of_nonneg hk

/-- Settles O21: the weights of the bits summed up, the bounds of `BitVec`'s two readings, and `word`
read back. -/
theorem readingsOfAWord : Obligations.ReadingsOfAWord := by
  refine ⟨unsigned_eq_sum_bits, fun v => rfl, fun v => ⟨?_, signed_bounds v⟩, unsigned_word⟩
  exact Nat.le_sub_one_of_lt v.isLt

/-! ## The primitive shifts (R13, R14, R15) -/

/-- A non-negative amount is the same number in both readings. -/
theorem toNat_signed {s : Word} (h : 0 ≤ signed s) : (signed s).toNat = s.toNat := by
  rw [signed_eq_unsigned_of_nonneg h, Int.toNat_natCast, unsigned_eq_toNat]

/-- A word whose signed reading lies in 0 to n is at most n as a number. -/
theorem toNat_le_of_signed {s : Word} {n : Nat} (h0 : 0 ≤ signed s) (hn : signed s ≤ n) : s.toNat ≤ n := by
  rw [← toNat_signed h0]
  exact Int.toNat_le.mpr hn

/-- Outside 0 to 31 in the signed reading is outside it in the unsigned one: a negative word is large. -/
theorem not_toNat_lt_of_signed_outside {s : Word} (h : signed s < 0 ∨ 31 < signed s) : ¬ s.toNat < 32 := by
  intro hs
  have h0 : 0 ≤ signed s := (signed_nonneg_iff s).mpr (by omega)
  have := toNat_signed h0
  omega

theorem signed_sshiftRight (v : Word) (n : Nat) :
    signed (v.sshiftRight n) = ⌊(signed v : ℚ) / 2 ^ n⌋ := by
  have hfloor := Rat.floor_intCast_div_natCast (signed v) (2 ^ n)
  push_cast at hfloor
  rw [hfloor, signed_eq_toInt, signed_eq_toInt, BitVec.toInt_sshiftRight, Int.shiftRight_eq_div_pow]
  norm_cast

/-- Bits above the word's end are copies of bit 31. -/
theorem getLsbD_sshiftRight_word (v : Word) (n : Nat) {i : Nat} (hi : i < 32) :
    (v.sshiftRight n).getLsbD i = if i + n ≤ 31 then v.getLsbD (i + n) else v.getLsbD 31 := by
  have hmsb : v.msb = v.getLsbD 31 := BitVec.msb_eq_getLsbD_last v
  rw [BitVec.getLsbD_sshiftRight, hmsb, Nat.add_comm n i]
  simp [Nat.not_le.mpr hi, Nat.lt_succ_iff]

/-- Settles O22: for a legal amount the two shifts are `BitVec`'s own, whose bits and readings are known. -/
theorem shiftsMoveBits : Obligations.ShiftsMoveBits := by
  intro v s h0 h31
  have hs : s.toNat < 32 := Nat.lt_succ_of_le (toNat_le_of_signed h0 h31)
  rw [toNat_signed h0]
  refine ⟨⟨v <<< s.toNat, shlWord_eq v hs, ?_, fun i hi => ?_⟩,
    ⟨v.sshiftRight s.toNat, sarWord_eq v hs, signed_sshiftRight v s.toNat, fun i hi =>
      getLsbD_sshiftRight_word v s.toNat hi⟩⟩
  · have hdef : shlWord v s = some (word ((unsigned v : Int) * 2 ^ unsigned s)) :=
      if_pos ((shiftable_iff s).mpr hs)
    exact Option.some.inj ((shlWord_eq v hs).symm.trans hdef)
  · rw [BitVec.getLsbD_shiftLeft]
    by_cases hlt : i < s.toNat <;> simp [hi, hlt]

/-- A shift by a word outside 0 to 31 has no value. -/
theorem shifts_none_of_outside (v : Word) {s : Word} (h : signed s < 0 ∨ 31 < signed s) :
    shlWord v s = none ∧ sarWord v s = none :=
  ⟨shlWord_none v (not_toNat_lt_of_signed_outside h), sarWord_none v (not_toNat_lt_of_signed_outside h)⟩

/-! ## The integer datapaths have a value on their domains (R15) -/

theorem shlWord_isSome (v : Word) {s : Word} (hs : s.toNat < 32) : (shlWord v s).isSome = true := by
  rw [shlWord_eq v hs, Option.isSome_some]

theorem sarWord_isSome (v : Word) {s : Word} (hs : s.toNat < 32) : (sarWord v s).isSome = true := by
  rw [sarWord_eq v hs, Option.isSome_some]

/-- A sequence has a value where its first line has one that meets P and the rest has one for every word
that meets P. -/
theorem bind_isSome {α β : Type} {P : α → Prop} {x : Option α} {f : α → Option β}
    (hx : ∃ w, x = some w ∧ P w) (hf : ∀ w, P w → (f w).isSome = true) : (x >>= f).isSome = true := by
  obtain ⟨w, rfl, hw⟩ := hx
  exact hf w hw

theorem bind_isSome_of_isSome {α β : Type} {x : Option α} {f : α → Option β} (hx : x.isSome = true)
    (hf : ∀ w, (f w).isSome = true) : (x >>= f).isSome = true := by
  obtain ⟨w, rfl⟩ := Option.isSome_iff_exists.mp hx
  exact hf w

/-- `!v` always has a value, and it is one of the words 0 and 1. -/
theorem bangWord_eq_some_le_one (v : Word) : ∃ w, bangWord v = some w ∧ w.toNat ≤ 1 := by
  refine ⟨_, by rw [bangWord, sarWord_eq _ (by decide)]; rfl, ?_⟩
  rw [BitVec.toNat_and]
  exact Nat.and_le_right

theorem bangWord_isSome (v : Word) : (bangWord v).isSome = true := by
  obtain ⟨w, hw, -⟩ := bangWord_eq_some_le_one v
  rw [hw, Option.isSome_some]

theorem bitAndLines_isSome (a b : Word) : (evalLines a b bitAndLines []).isSome = true := by
  rw [bitAndLines_eval, Option.isSome_some]

theorem negateLines_isSome (a b : Word) : (evalLines a b negateLines []).isSome = true := by
  rw [negateLines_eval, Option.isSome_some]

theorem bangLines_isSome (a b : Word) : (evalLines a b bangLines []).isSome = true := by
  rw [bangLines_eval]
  exact bangWord_isSome a

theorem tminLines_isSome (a b : Word) : (evalLines a b tminLines []).isSome = true := by
  rw [tminLines_eval]
  exact shlWord_isSome 1#32 (by decide)

/-- R61 shifts by eight times the byte number. -/
theorem getByteLines_isSome (a : Word) {b : Word} (hb : b.toNat ≤ 3) :
    (evalLines a b getByteLines []).isSome = true := by
  have hs : (b <<< 3).toNat < 32 := by
    rw [BitVec.toNat_shiftLeft, Nat.shiftLeft_eq]
    exact (Nat.mod_le _ _).trans_lt (by omega)
  simp [getByteLines_eval, shlWord_eq, sarWord_eq a hs]

theorem logicalShiftLines_isSome (a : Word) {b : Word} (hb : b.toNat ≤ 31) :
    (evalLines a b logicalShiftLines []).isSome = true := by
  have hb' : b.toNat < 32 := by omega
  simp [logicalShiftLines_eval, shlWord_eq, sarWord_eq, hb']

theorem bitCountLines_isSome (a b : Word) : (evalLines a b bitCountLines []).isSome = true := by
  simp [bitCountLines_eval, sarWord_eq]

/-- R71 shifts by 32 − n, which is at most 31 because n is at least 1. -/
theorem fitsBitsLines_isSome (a : Word) {b : Word} (h1 : 1 ≤ b.toNat) (h32 : b.toNat ≤ 32) :
    (evalLines a b fitsBitsLines []).isSome = true := by
  have hs : (33#32 + ~~~b).toNat < 32 := by bv_omega
  simp [fitsBitsLines_eval, shlWord_eq _ hs, sarWord_eq _ hs, bangWord_isSome]

theorem divpwr2Lines_isSome (a : Word) {b : Word} (hb : b.toNat ≤ 30) :
    (evalLines a b divpwr2Lines []).isSome = true := by
  have hb' : b.toNat < 32 := by omega
  simp [divpwr2Lines_eval, shlWord_eq, sarWord_eq, hb']

theorem isPositiveLines_isSome (a b : Word) : (evalLines a b isPositiveLines []).isSome = true := by
  obtain ⟨zero, hzero, -⟩ := bangWord_eq_some_le_one a
  simp [isPositiveLines_eval, sarWord_eq, hzero, bangWord_isSome]

theorem isLessOrEqualLines_isSome (a b : Word) :
    (evalLines a b isLessOrEqualLines []).isSome = true := by
  simp [isLessOrEqualLines_eval, sarWord_eq]

/-- The lines `!!(v >>a k) << j` of R81: for j at most 4 the value is a legal shift amount. -/
theorem ilog2_amount_lt (v : Word) {k j : Word} (hk : k.toNat < 32) (hj : j.toNat ≤ 4) :
    ∃ w, (sarWord v k >>= bangWord >>= bangWord >>= fun t => shlWord t j) = some w ∧ w.toNat < 32 := by
  obtain ⟨u, hu, -⟩ := bangWord_eq_some_le_one (v.sshiftRight k.toNat)
  obtain ⟨t, ht, ht1⟩ := bangWord_eq_some_le_one u
  refine ⟨t <<< j.toNat, ?_, ?_⟩
  · simp [sarWord_eq v hk, hu, ht, shlWord_eq t (show j.toNat < 32 by omega)]
  · have hpow : 2 ^ j.toNat ≤ 2 ^ 4 := Nat.pow_le_pow_right (by norm_num) hj
    have hmul : t.toNat * 2 ^ j.toNat ≤ 1 * 2 ^ 4 := Nat.mul_le_mul ht1 hpow
    rw [BitVec.toNat_shiftLeft, Nat.shiftLeft_eq]
    exact (Nat.mod_le _ _).trans_lt (by omega)

/-- R81: every amount it computes is one of its own selections, so it has a value for every word. -/
theorem ilog2Lines_isSome (a b : Word) : (evalLines a b ilog2Lines []).isSome = true := by
  rw [ilog2Lines_eval]
  refine bind_isSome (ilog2_amount_lt a (by decide) (by decide)) fun s16 h16 => ?_
  refine bind_isSome_of_isSome (sarWord_isSome a h16) fun v1 => ?_
  refine bind_isSome (ilog2_amount_lt v1 (by decide) (by decide)) fun s8 h8 => ?_
  refine bind_isSome_of_isSome (sarWord_isSome v1 h8) fun v2 => ?_
  refine bind_isSome (ilog2_amount_lt v2 (by decide) (by decide)) fun s4 h4 => ?_
  refine bind_isSome_of_isSome (sarWord_isSome v2 h4) fun v3 => ?_
  refine bind_isSome (ilog2_amount_lt v3 (by decide) (by decide)) fun s2 h2 => ?_
  refine bind_isSome_of_isSome (sarWord_isSome v3 h2) fun v4 => ?_
  refine bind_isSome_of_isSome ?_ fun s1 => rfl
  exact bind_isSome_of_isSome (bind_isSome_of_isSome (sarWord_isSome v4 (by decide)) bangWord_isSome)
    bangWord_isSome

/-! ## The float datapaths have a value for every word (R15) -/

/-- One round of the loop of R96. -/
theorem normaliseLoop_succ (rounds : Nat) (v : Word) (count : Nat) :
    normaliseLoop (rounds + 1) v count =
      if v.getLsbD 31 then some (count + 1, v <<< 1) else normaliseLoop rounds (v <<< 1) (count + 1) := by
  have hshl : shlWord v 1#32 = some (v <<< 1) := shlWord_eq v (by decide)
  rw [normaliseLoop, hshl, Option.bind_eq_bind, Option.bind_some]

/-- The loop of R96 ends within the rounds it is given when that many doublings push a bit out of the top. -/
theorem normaliseLoop_isSome (rounds : Nat) (v : Word) (count : Nat) (h : 2 ^ 32 ≤ v.toNat * 2 ^ rounds) :
    (normaliseLoop rounds v count).isSome = true := by
  induction rounds generalizing v count with
  | zero =>
    have := v.isLt
    omega
  | succ rounds ih =>
    rw [normaliseLoop_succ]
    by_cases htop : v.getLsbD 31 = true
    · rw [if_pos htop, Option.isSome_some]
    · have hv : v.toNat < 2 ^ 31 := by
        have hmsb : v.msb = v.getLsbD 31 := BitVec.msb_eq_getLsbD_last v
        exact BitVec.toNat_lt_of_msb_false (by simpa [hmsb] using htop)
      have hdouble : (v <<< 1).toNat = v.toNat * 2 := by
        rw [BitVec.toNat_shiftLeft, Nat.shiftLeft_eq, Nat.mod_eq_of_lt (by omega)]
      rw [if_neg htop]
      refine ih (v <<< 1) (count + 1) ?_
      rw [hdouble, Nat.mul_assoc, ← Nat.pow_succ']
      exact h

theorem assemblePattern_isSome (sign : Word) (count : Nat) (v : Word) :
    (assemblePattern sign count v).isSome = true := by
  simp [assemblePattern, shlWord_eq]

/-- The magnitude of a word other than 0 is not 0. -/
theorem signAndMagnitude_snd_ne_zero {a : Word} (ha : a ≠ 0#32) : (signAndMagnitude a).2 ≠ 0#32 := by
  unfold signAndMagnitude
  dsimp only
  split
  · rw [← BitVec.neg_eq_not_add]
    exact fun h => ha (BitVec.neg_eq_zero_iff.mp h)
  · exact ha

theorem floatI2fDatapath_isSome (a : Word) : (floatI2fDatapath a).isSome = true := by
  by_cases ha : a = 0#32
  · simp [floatI2fDatapath, ha]
  · have hmag : 0 < (signAndMagnitude a).2.toNat :=
      BitVec.toNat_pos_of_ne_zero (signAndMagnitude_snd_ne_zero ha)
    obtain ⟨⟨count, v⟩, hloop⟩ := Option.isSome_iff_exists.mp
      (normaliseLoop_isSome 32 (signAndMagnitude a).2 0 (Nat.le_mul_of_pos_left _ hmag))
    simp [floatI2fDatapath, ha, hloop, assemblePattern_isSome]

theorem floatNegDatapath_isSome (a : Word) : (floatNegDatapath a).isSome = true := by
  unfold floatNegDatapath
  split <;> rfl

theorem floatTwiceDatapath_isSome (fe : TwiceFe) (a : Word) : (floatTwiceDatapath fe a).isSome = true := by
  have hshl : shlWord a 1#32 = some (a <<< 1) := shlWord_eq a (by decide)
  unfold floatTwiceDatapath
  dsimp only
  split
  · simp [hshl]
  · split
    · rfl
    · split <;> rfl

/-- An operation of the integer family has the value of its lines. -/
theorem datapathResult_of_lines {i : Instr} {lines : List BitExpr} (cfg : Config) (a b : Word)
    (h : integerDatapath i = some lines) : datapathResult cfg i a b = evalLines a b lines [] := by
  cases i with
  | floatNeg | floatI2f | floatTwice | reserved => cases h
  | _ => simp only [datapathResult, h, Option.bind_eq_bind, Option.bind_some]

theorem datapathResult_isSome_of_lines {i : Instr} {lines : List BitExpr} {a b : Word} (cfg : Config)
    (h : integerDatapath i = some lines) (hsome : (evalLines a b lines []).isSome = true) :
    (datapathResult cfg i a b).isSome = true := by
  rw [datapathResult_of_lines cfg a b h, hsome]

/-- Inside its operation's domain every reference datapath has a value, so it met no illegal amount. -/
theorem datapathResult_isSome {i : Instr} {a b : Word} (cfg : Config) (h : inDomain i a b = true) :
    (datapathResult cfg i a b).isSome = true := by
  cases i with
  | bitAnd => exact datapathResult_isSome_of_lines cfg rfl (bitAndLines_isSome a b)
  | getByte =>
    obtain ⟨h0, h3⟩ := (inDomain_getByte a b).mp h
    exact datapathResult_isSome_of_lines cfg rfl (getByteLines_isSome a (toNat_le_of_signed h0 h3))
  | logicalShift =>
    obtain ⟨h0, h31⟩ := (inDomain_logicalShift a b).mp h
    exact datapathResult_isSome_of_lines cfg rfl (logicalShiftLines_isSome a (toNat_le_of_signed h0 h31))
  | bitCount => exact datapathResult_isSome_of_lines cfg rfl (bitCountLines_isSome a b)
  | bang => exact datapathResult_isSome_of_lines cfg rfl (bangLines_isSome a b)
  | tmin => exact datapathResult_isSome_of_lines cfg rfl (tminLines_isSome a b)
  | fitsBits =>
    obtain ⟨h1, h32⟩ := (inDomain_fitsBits a b).mp h
    have h0 : 0 ≤ signed b := by omega
    have hb : 1 ≤ b.toNat := by
      have := toNat_signed h0
      omega
    exact datapathResult_isSome_of_lines cfg rfl (fitsBitsLines_isSome a hb (toNat_le_of_signed h0 h32))
  | divpwr2 =>
    obtain ⟨h0, h30⟩ := (inDomain_divpwr2 a b).mp h
    exact datapathResult_isSome_of_lines cfg rfl (divpwr2Lines_isSome a (toNat_le_of_signed h0 h30))
  | negate => exact datapathResult_isSome_of_lines cfg rfl (negateLines_isSome a b)
  | isPositive => exact datapathResult_isSome_of_lines cfg rfl (isPositiveLines_isSome a b)
  | isLessOrEqual => exact datapathResult_isSome_of_lines cfg rfl (isLessOrEqualLines_isSome a b)
  | ilog2 => exact datapathResult_isSome_of_lines cfg rfl (ilog2Lines_isSome a b)
  | floatNeg => rw [datapathResult, floatNegDatapath_isSome]
  | floatI2f => rw [datapathResult, floatI2fDatapath_isSome]
  | floatTwice => rw [datapathResult, floatTwiceDatapath_isSome]
  | reserved => cases h

/-- Settles O23: an illegal amount is illegal in the unsigned reading too, and `datapathResult_isSome`
goes through the operations. -/
theorem shiftAmountsStayInRange : Obligations.ShiftAmountsStayInRange :=
  ⟨fun v _ h => shifts_none_of_outside v h, fun cfg _ _ _ h => datapathResult_isSome cfg h⟩

/-! ## What a transaction leaves unchanged (R17) -/

/-- Settles O8: a completion is `setResult` inside the domain and `takeDraw` outside it. -/
theorem transactionsLeaveThePortsAlone : Obligations.TransactionsLeaveThePortsAlone := by
  intro i s t h
  cases hd : inDomain i s.a s.b with
  | true =>
    obtain ⟨w, -, hw⟩ := exec_of_inDomain hd
    obtain rfl : s.setResult w = t := Host.Outcome.next.inj (hw.symm.trans h)
    exact ⟨rfl, rfl, rfl, fun _ => rfl, nofun⟩
  | false =>
    obtain rfl : s.takeDraw = t := Host.Outcome.next.inj ((exec_of_outside hd).symm.trans h)
    exact ⟨rfl, rfl, rfl, nofun, fun _ => rfl⟩

/-- Settles O17: each of the five ranges is the complement of its operation's domain. -/
theorem outsideTheDomainTheResultIsFree : Obligations.OutsideTheDomainTheResultIsFree := by
  intro s
  refine ⟨fun h => exec_of_outside ?_, fun h => exec_of_outside ?_, fun h => exec_of_outside ?_,
    fun h => exec_of_outside ?_, fun h => exec_of_outside ?_⟩
  · rw [Bool.eq_false_iff, ne_eq, inDomain_getByte]; omega
  · rw [Bool.eq_false_iff, ne_eq, inDomain_logicalShift]; omega
  · rw [Bool.eq_false_iff, ne_eq, inDomain_fitsBits]; omega
  · rw [Bool.eq_false_iff, ne_eq, inDomain_divpwr2]; omega
  · rw [Bool.eq_false_iff, ne_eq, inDomain_ilog2]; omega

/-! ## What `UNSPEC` decides (R8) -/

/-- The transaction function does not read `UNSPEC`. -/
theorem transactionResult_unspec (fe : TwiceFe) (us us' : Unspec) (c : Code) (a b : Word) :
    transactionResult ⟨fe, us⟩ c a b = transactionResult ⟨fe, us'⟩ c a b := rfl

theorem stepWith_of_val {cfg : Config} {s : State} {w : Word}
    (h : transactionResult cfg s.op s.a s.b = .val w) : stepWith cfg s = .next (s.setResult w) := by
  rw [stepWith, h, respond_val]

theorem stepWith_of_unspecified {cfg : Config} {s : State}
    (h : transactionResult cfg s.op s.a s.b = .unspecified) :
    stepWith cfg s = respond cfg .unspecified s := by
  rw [stepWith, h]

/-- Settles O19: by the result of the transaction, which is the same under both values of `UNSPEC`. -/
theorem unspecDecidesOnlyUnspecifiedResults : Obligations.UnspecDecidesOnlyUnspecifiedResults := by
  intro fe s
  cases hres : transactionResult ⟨fe, .refuse⟩ s.op s.a s.b with
  | val w =>
    have hrefuse := stepWith_of_val hres
    have hdraw := stepWith_of_val ((transactionResult_unspec fe .draw .refuse s.op s.a s.b).trans hres)
    refine ⟨?_, ⟨_, hdraw, rfl⟩, fun v hv => ?_⟩
    · simp [hrefuse]
    · obtain rfl := Result.val.inj hv
      exact ⟨hrefuse, hdraw⟩
  | unspecified =>
    have hrefuse := stepWith_of_unspecified hres
    have hdraw := stepWith_of_unspecified ((transactionResult_unspec fe .draw .refuse s.op s.a s.b).trans hres)
    exact ⟨⟨fun _ => rfl, fun _ => hrefuse⟩, ⟨s.takeDraw, hdraw, rfl⟩, nofun⟩

end Sys2Proof.Machine
end

section
/-! PROOFS. The statements of 10_state.md: the block holds no state of its own and a step is its function of
the transaction on the ports (R20), the output settles (R22, R31), and equal in-domain transactions give
equal results (R28). -/

namespace Sys2Proof.Machine

/-! ## What a transaction and a step can do -/

theorem transactionResult_of_inDomain {cfg : Config} {c : Code} {a b w : Word}
    (hd : inDomain (decode c) a b = true) (hw : functionalResult cfg (decode c) a b = some w) :
    transactionResult cfg c a b = .val w := by
  simp only [transactionResult, hw, hd, if_true]

theorem transactionResult_of_outside {cfg : Config} {c : Code} {a b : Word}
    (hd : inDomain (decode c) a b = false) : transactionResult cfg c a b = .unspecified := by
  cases hres : transactionResult cfg c a b with
  | val w => exact absurd (transactionResult_eq_val hres).1 (by simp [hd])
  | unspecified => rfl

/-- The two things a step can do: inside the domain it puts the transaction's word on `r`, outside it a
free one. -/
theorem step_cases (s : State) :
    (inDomain (decode s.op) s.a s.b = true ∧
      ∃ w, transactionResult config s.op s.a s.b = .val w ∧ step s = .next (s.setResult w)) ∨
    (inDomain (decode s.op) s.a s.b = false ∧
      transactionResult config s.op s.a s.b = .unspecified ∧ step s = .next s.takeDraw) := by
  cases hd : inDomain (decode s.op) s.a s.b with
  | true =>
    obtain ⟨w, hw, hstep⟩ := exec_of_inDomain hd
    exact .inl ⟨rfl, w, transactionResult_of_inDomain hd hw, hstep⟩
  | false => exact .inr ⟨rfl, transactionResult_of_outside hd, exec_of_outside hd⟩

/-! ## The output settles (R22, R31) -/

theorem settled_iff (s : State) :
    s.settled = true ↔ ∀ w, transactionResult config s.op s.a s.b = .val w → s.r = w := by
  unfold State.settled
  cases transactionResult config s.op s.a s.b <;> simp

/-- A step settles the output, whether or not it had settled before. -/
theorem step_settled {s t : State} (h : step s = .next t) : t.settled = true := by
  rw [settled_iff]
  intro w hw
  obtain ⟨-, v, hv, hstep⟩ | ⟨-, hv, hstep⟩ := step_cases s
  · obtain rfl : s.setResult v = t := Host.Outcome.next.inj (hstep.symm.trans h)
    exact Result.val.inj (hv.symm.trans hw)
  · obtain rfl : s.takeDraw = t := Host.Outcome.next.inj (hstep.symm.trans h)
    cases hv.symm.trans hw

/-- What a script that ran to its end did at its first line. -/
theorem runScript_cons_ok {l : Line} {ls : List Line} {s : State} {ws : List Word} {p : State × List Word}
    (h : runScript (l :: ls) s ws = .ok p) :
    ∃ tr s', l.transaction ws = some tr ∧ step (s.drive tr.op tr.a tr.b) = .next s' ∧
      runScript ls s' (ws ++ [s'.r]) = .ok p := by
  rw [runScript] at h
  split at h
  · cases h
  · next tr htr =>
    split at h
    · next s' hstep => exact ⟨tr, s', htr, hstep, h⟩
    · cases h
    · cases h

/-- A script leaves a settled output settled. -/
theorem runScript_settled {ls : List Line} {s t : State} {ws ws' : List Word} (hs : s.settled = true)
    (h : runScript ls s ws = .ok (t, ws')) : t.settled = true := by
  induction ls generalizing s ws with
  | nil =>
    obtain ⟨rfl, -⟩ := Prod.mk.inj (Except.ok.inj h)
    exact hs
  | cons l ls ih =>
    obtain ⟨_, s', -, hstep, hrest⟩ := runScript_cons_ok h
    exact ih (step_settled hstep) hrest

/-- Settles O9: a script's first line ends in a step, which settles the output, and the other lines keep it
settled. -/
theorem everyStepSettlesTheOutput : Obligations.EveryStepSettlesTheOutput := by
  refine ⟨fun s t h => step_settled h, fun l ls s t ws ws' h => ?_⟩
  obtain ⟨_, s', -, hstep, hrest⟩ := runScript_cons_ok h
  exact runScript_settled (step_settled hstep) hrest

/-- Where the output already carries its in-domain transaction's word, a step changes nothing. -/
theorem step_of_settled {s : State} (hs : s.settled = true) (hd : s.hostDutyMet = true) :
    step s = .next s := by
  obtain ⟨-, w, hw, hstep⟩ | ⟨hout, -, -⟩ := step_cases s
  · rw [hstep, ← (settled_iff s).mp hs w hw]
    rfl
  · cases hd.symm.trans hout

/-- Settles O10: the reset state is `bitAnd(0,0)` with its result, so it is settled and `step_of_settled`
applies. -/
theorem resetStateIsSettled : Obligations.ResetStateIsSettled := by
  have hs : State.reset.settled = true := by decide
  have hd : State.reset.hostDutyMet = true := rfl
  exact ⟨hs, hd, step_of_settled hs hd⟩

/-! ## Equal transactions give equal results (R28) -/

/-- Where the host's duty is met, the transaction on the ports gives a word, the same from every state. -/
theorem gives_of_hostDutyMet {s : State} (hd : s.hostDutyMet = true) : ∃ w, Gives s.op s.a s.b w := by
  obtain ⟨-, w, hw, -⟩ | ⟨hout, -, -⟩ := step_cases s
  · exact ⟨w, (gives_iff _ _ _ _).mpr hw⟩
  · cases hd.symm.trans hout

/-- Settles O11: the transaction gives one word, and both states have that transaction on the ports. -/
theorem equalTransactionsGiveEqualResults : Obligations.EqualTransactionsGiveEqualResults := by
  intro s t hop ha hb hd
  obtain ⟨w, hw⟩ := gives_of_hostDutyMet hd
  exact ⟨w, hw s rfl rfl rfl, hw t hop.symm ha.symm hb.symm⟩

/-! ## The block alone (R20) -/

theorem transact_of_val {cfg : Config} {t : Transaction} {w : Word} (d : Word) (x : BlockState)
    (h : transactionResult cfg t.op t.a t.b = .val w) : transact cfg d x t = some (w, x) := by
  simp only [transact, h]

theorem transact_of_unspecified {cfg : Config} {t : Transaction} (d : Word) (x : BlockState)
    (h : transactionResult cfg t.op t.a t.b = .unspecified) (hdraw : cfg.unspec = .draw) :
    transact cfg d x t = some (d, x) := by
  simp only [transact, h, hdraw]

/-- A step puts the block's answer to the transaction on the ports on `r`; outside the domain it takes the
word on offer, which moves the counter of free words. -/
theorem step_eq_transact (s : State) : ∃ w x,
    transact config (Config.freeWord s.draws) s.block s.transaction = some (w, x) ∧
    step s = .next { s with
      block := x
      r := w
      draws := if inDomain (decode s.op) s.a s.b then s.draws else s.draws + 1 } := by
  obtain ⟨hd, w, hw, hstep⟩ | ⟨hd, hres, hstep⟩ := step_cases s
  · refine ⟨w, s.block, transact_of_val _ _ hw, ?_⟩
    rw [hstep, hd]
    rfl
  · refine ⟨Config.freeWord s.draws, s.block, transact_of_unspecified _ _ hres config_unspec, ?_⟩
    rw [hstep, hd]
    rfl

/-- The word a host samples is the word of the block's answer. -/
theorem sampled_step (s : State) : sampled (step s) =
    (transact config (Config.freeWord s.draws) s.block s.transaction).map Prod.fst := by
  obtain ⟨w, x, htransact, hstep⟩ := step_eq_transact s
  rw [htransact, hstep]
  rfl

/-- Settles O59: the empty record has one value, and a step samples the block's answer, which reads the
transaction and, for an `Unspecified` result, the word on offer. -/
theorem blockHoldsNoState : Obligations.BlockHoldsNoState := by
  refine ⟨fun _ _ => rfl, fun cfg d e x y t hres => ?_, step_eq_transact, fun s t ht hoffer => ?_⟩
  · cases hval : transactionResult cfg t.op t.a t.b with
    | val w => rw [transact_of_val d x hval, transact_of_val e y hval]
    | unspecified => exact absurd hval hres
  · rw [sampled_step, sampled_step, ht, hoffer]

end Sys2Proof.Machine
end

section
/-! PROOFS. The statements of 20_memory.md: evaluating a held transaction again changes nothing (R36), and the
operation performed is the one the code on the `op` port selects (R41). -/

namespace Sys2Proof.Machine

/-! ## Evaluating a held transaction again (R36, R121) -/

/-- A step holds its transaction on the ports, and the host's duty is about the ports alone. -/
theorem step_hostDutyMet {s t : State} (h : step s = .next t) : t.hostDutyMet = s.hostDutyMet := by
  obtain ⟨hop, ha, hb, -⟩ := transactionsLeaveThePortsAlone (decode s.op) s t h
  rw [State.hostDutyMet, State.hostDutyMet, hop, ha, hb]

/-- Settles O13: the first step settles the output and leaves the transaction in place, so the second finds
`r` already carrying its word. -/
theorem evaluationIsIdempotent : Obligations.EvaluationIsIdempotent := by
  intro s t hd h
  exact step_of_settled (step_settled h) ((step_hostDutyMet h).trans hd)

/-! ## The code on `op` selects the operation (R41, R50) -/

/-- Every code of R44, and the reserved one, reads back as the constructor it was written for. -/
@[simp] theorem decode_encode (i : Instr) : decode (encode i) = i := by
  cases i <;> rfl

/-- A number of the opcode table stands for an operation where it fits the port and its code decodes to it. -/
theorem decodeTableWord_eq_some_iff {nbits w : Nat} {i : Instr} :
    decodeTableWord nbits w = some i ↔ w < 2 ^ opw ∧ decode (BitVec.ofNat 4 w) = i := by
  unfold decodeTableWord decodeNumber
  by_cases hw : w < 2 ^ opw <;> simp [hw]

/-- A step performs any operation that the code on the port decodes to. -/
theorem step_eq_exec {s : State} {i : Instr} (h : decode s.op = i) : step s = exec i s := by
  rw [step, h]

/-- Settles O4: `step_eq_exec`, with the port holding an encoded operation or a number of the table. -/
theorem stepRunsTheDecodedOperation : Obligations.StepRunsTheDecodedOperation := by
  refine ⟨fun s => step_eq_exec rfl, fun i s _ hop => step_eq_exec ?_,
    fun s nbits w i hw => step_eq_exec ?_, fun s nbits w => rfl⟩
  · rw [hop, decode_encode]
  · rw [State.withFetchWord_op]
    exact (decodeTableWord_eq_some_iff.mp hw).2

end Sys2Proof.Machine
end

section
/-! PROOFS. The statements of 30_encoding.md: the operation map (R44, R49), the transaction and its written
word (R50, R51), ignored ports (R48), what a result word reads as (R47), and transaction scripts (R53). -/

namespace Sys2Proof.Machine

/-! ## The operation map (R44, R45, R49) -/

/-- The reserved code alone selects no operation. -/
theorem wellFormed_iff (i : Instr) : wellFormed i = true ↔ i ≠ .reserved := by
  cases i <;> simp [wellFormed]

/-- The code of what a code decodes to is the code itself: the table of R44, row by row. -/
@[simp] theorem encode_decode (c : Code) : encode (decode c) = c := by
  revert c
  decide

theorem decode_injective : Function.Injective decode :=
  Function.LeftInverse.injective encode_decode

theorem decode_eq_reserved_iff (c : Code) : decode c = .reserved ↔ c = 0xF#4 :=
  decode_injective.eq_iff' decode_reserved

/-- Settles O1: the rows are read off the four tables, and `encode` inverts `decode` on both sides. -/
theorem decodeIsTheOperationMap : Obligations.DecodeIsTheOperationMap := by
  refine ⟨fun row hrow => ?_, fun i _ => decode_encode i, fun c hc => ⟨?_, encode_decode c⟩,
    fun c d _ h => decode_injective h⟩
  · fin_cases hrow <;> exact ⟨rfl, rfl, rfl, rfl⟩
  · rw [wellFormed_iff, ne_eq, decode_eq_reserved_iff]
    exact hc

/-- R44: the two high bits of a code are 11 in the float and the reserved rows alone. -/
theorem highBits_eq_iff (c : Code) : c.extractLsb' 2 2 = 0b11#2 ↔ familyOf (decode c) ≠ .integer := by
  revert c
  decide

/-- Settles O2: four rows of the map, the first number wider than the port, and the sixteen codes' high
bits. -/
theorem sampleCodesDecodeAsWritten : Obligations.SampleCodesDecodeAsWritten :=
  ⟨decode_getByte, decode_divpwr2, decode_floatI2f,
    decodeTableWord_eq_some_iff.mpr ⟨by decide, decode_floatTwice⟩, rfl, highBits_eq_iff⟩

/-! ## A step is the transaction function (R50) -/

theorem step_eq_stepWith (s : State) : step s = stepWith config s := by
  obtain ⟨-, w, hw, hstep⟩ | ⟨-, hres, hstep⟩ := step_cases s
  · rw [hstep, stepWith_of_val hw]
  · rw [hstep, stepWith_of_unspecified hres, respond_unspecified]

theorem transactionResult_of_reserved (cfg : Config) {c : Code} (a b : Word) (h : decode c = .reserved) :
    transactionResult cfg c a b = .unspecified :=
  transactionResult_of_outside (by rw [h, inDomain_reserved])

/-- Settles O5: inside the domain by `exec_of_inDomain`, outside it and for the reserved code, whose domain
is empty, by `transactionResult_of_outside`. -/
theorem stepIsTheTransactionFunction : Obligations.StepIsTheTransactionFunction := by
  refine fun s => ⟨step_eq_stepWith s, transactionResult_of_reserved config s.a s.b, fun _ hd => ?_,
    transactionResult_of_outside⟩
  obtain ⟨w, hw, -⟩ := exec_of_inDomain hd
  exact ⟨w, hw, transactionResult_of_inDomain hd hw⟩

theorem respond_refuse {cfg : Config} (s : State) (h : cfg.unspec = .refuse) :
    respond cfg .unspecified s = .refused .unspecifiedResult := by
  simp only [respond, h]

/-- Settles O18: the reserved code has no domain, so a block that draws takes a free word and a block that
refuses answers the refusal. -/
theorem reservedCodeResultIsFree : Obligations.ReservedCodeResultIsFree := by
  refine ⟨decode_reserved, fun s => exec_of_outside (inDomain_reserved s.a s.b), fun cfg s hop hcfg => ?_⟩
  have hres := transactionResult_of_reserved cfg s.a s.b ((decode_eq_reserved_iff s.op).mpr hop)
  rw [stepWith_of_unspecified hres, respond_refuse s hcfg]

/-! ## Ignored ports (R48) -/

theorem functionalResult_of_ignoredA (cfg : Config) {i : Instr} (v w b : Word)
    (h : readingOfA i = .ignored) : functionalResult cfg i v b = functionalResult cfg i w b := by
  cases i with
  | tmin | reserved => rfl
  | _ => cases h

theorem functionalResult_of_ignoredB (cfg : Config) {i : Instr} (a v w : Word)
    (h : readingOfB i = .ignored) : functionalResult cfg i a v = functionalResult cfg i a w := by
  cases i with
  | bitAnd | getByte | logicalShift | fitsBits | divpwr2 | isLessOrEqual => cases h
  | _ => rfl

theorem inDomain_of_ignoredA {i : Instr} (v w b : Word) (h : readingOfA i = .ignored) :
    inDomain i v b = inDomain i w b := by
  simp only [inDomain, h, Reading.admits]

theorem inDomain_of_ignoredB {i : Instr} (a v w : Word) (h : readingOfB i = .ignored) :
    inDomain i a v = inDomain i a w := by
  simp only [inDomain, h, Reading.admits]

theorem transactionResult_of_ignoredA (cfg : Config) {c : Code} (v w b : Word)
    (h : readingOfA (decode c) = .ignored) : transactionResult cfg c v b = transactionResult cfg c w b := by
  rw [transactionResult, transactionResult, functionalResult_of_ignoredA cfg v w b h,
    inDomain_of_ignoredA v w b h]

theorem transactionResult_of_ignoredB (cfg : Config) {c : Code} (a v w : Word)
    (h : readingOfB (decode c) = .ignored) : transactionResult cfg c a v = transactionResult cfg c a w := by
  rw [transactionResult, transactionResult, functionalResult_of_ignoredB cfg a v w h,
    inDomain_of_ignoredB a v w h]

/-- Inside the domain the word a host samples is the functional result. -/
theorem sampled_exec_of_inDomain {i : Instr} {s : State} (h : inDomain i s.a s.b = true) :
    sampled (exec i s) = functionalResult config i s.a s.b ∧ (sampled (exec i s)).isSome = true := by
  obtain ⟨w, hw, hexec⟩ := exec_of_inDomain h
  rw [hexec, hw]
  exact ⟨rfl, rfl⟩

/-- Settles O12: the nine rows and the row of `tmin` ignore the port, and neither an operation's domain nor
its functional result reads an ignored port. -/
theorem ignoredPortsDoNotMatter : Obligations.IgnoredPortsDoNotMatter := by
  refine ⟨fun i hi cfg a v w => transactionResult_of_ignoredB cfg a v w ?_,
    fun cfg v w b => transactionResult_of_ignoredA cfg v w b rfl, fun i s v hb hd => ?_⟩
  · rw [decode_encode]
    revert i
    decide
  · have hd' : inDomain i s.a v = true := (inDomain_of_ignoredB s.a v s.b hb).trans hd
    obtain ⟨hs, hsome⟩ := sampled_exec_of_inDomain hd
    obtain ⟨hs', -⟩ := sampled_exec_of_inDomain (s := { s with b := v }) hd'
    exact ⟨hs'.trans ((functionalResult_of_ignoredB config s.a v s.b hb).trans hs.symm), hsome⟩

/-! ## What a result word reads as (R47, R55) -/

/-- A word whose number is at most n reads as 0 to n. -/
theorem upTo_admits {w : Word} {n : Nat} (hw : w.toNat ≤ n) (hn : n < 2 ^ 31) :
    (ResultReading.upTo n).admits w = true := by
  have h0 : 0 ≤ signed w := (signed_nonneg_iff w).mpr (by omega)
  have hs := toNat_signed h0
  simp only [ResultReading.admits, Bool.and_eq_true, decide_eq_true_eq]
  omega

theorem zeroOne_admits_iff (w : Word) : ResultReading.zeroOne.admits w = true ↔ w = 1#32 ∨ w = 0#32 := by
  simp only [ResultReading.admits, Bool.or_eq_true, beq_iff_eq]

theorem zeroOne_admits_boolWord (c : Bool) : ResultReading.zeroOne.admits (boolWord c) = true := by
  cases c <;> rfl

theorem toNat_word_natCast {n : Nat} (h : n < 2 ^ 32) : (word n).toNat = n := by
  have := unsigned_word n
  rw [unsigned_eq_toNat] at this
  omega

theorem getByteValue_le (x n : Word) : (getByteValue x n).toNat ≤ 255 := by
  rw [getByteValue, BitVec.toNat_setWidth_of_le (by norm_num)]
  exact Nat.le_of_lt_succ (byteOf x (countOf n)).isLt

theorem bitSum_le (v : Word) : bitSum v ≤ 32 := by
  refine (List.sum_le_card_nsmul _ 1 ?_).trans (by simp)
  simp only [List.forall_mem_map]
  exact fun i _ => Bool.toNat_le (v.getLsbD i)

theorem bitCountValue_le (x : Word) : (bitCountValue x).toNat ≤ 32 := by
  have := bitSum_le x
  rw [bitCountValue, toNat_word_natCast (by omega)]
  exact this

/-- A positive word is below 2^31 as a number, so its highest 1 bit is at most bit 30. -/
theorem highestBit_le_of_signed_pos {x : Word} (h : 0 < signed x) : highestBit (unsigned x) ≤ 30 := by
  have hlt : unsigned x < 2 ^ 31 := (signed_nonneg_iff x).mp h.le
  have hpos : 0 < unsigned x := by
    have := signed_eq_unsigned_of_nonneg h.le
    omega
  obtain ⟨hle, -⟩ := highestBit_spec (unsigned x) (by omega) hpos
  exact Nat.le_of_lt_succ ((Nat.pow_lt_pow_iff_right (by norm_num)).mp (hle.trans_lt hlt))

theorem ilog2Value_le {x : Word} (h : 0 < signed x) : (ilog2Value x).toNat ≤ 30 := by
  have := highestBit_le_of_signed_pos h
  rw [ilog2Value, toNat_word_natCast (by omega)]
  exact this

/-- R47, row by row: inside the domain the functional result reads as the `r` column says. -/
theorem functionalResult_admitted {cfg : Config} {i : Instr} {a b w : Word}
    (hd : inDomain i a b = true) (hw : functionalResult cfg i a b = some w) :
    (readingOfResult i).admits w = true := by
  cases i with
  | getByte =>
    obtain rfl := Option.some.inj hw
    exact upTo_admits (getByteValue_le a b) (by norm_num)
  | bitCount =>
    obtain rfl := Option.some.inj hw
    exact upTo_admits (bitCountValue_le a) (by norm_num)
  | ilog2 =>
    obtain rfl := Option.some.inj hw
    exact upTo_admits (ilog2Value_le ((inDomain_ilog2 a b).mp hd)) (by norm_num)
  | tmin =>
    obtain rfl := Option.some.inj hw
    rfl
  | bang | fitsBits | isPositive | isLessOrEqual =>
    obtain rfl := Option.some.inj hw
    exact zeroOne_admits_boolWord _
  | _ => rfl

/-- R55: the four predicates are rows that read 0/1. -/
theorem readingOfResult_predicate :
    ∀ i ∈ ([.bang, .fitsBits, .isPositive, .isLessOrEqual] : List Instr), readingOfResult i = .zeroOne := by
  decide

/-- Settles O24: the word of a transaction is its operation's functional result, and a predicate's row
admits the words 1 and 0 alone. -/
theorem resultsReadAsTheTableSays : Obligations.ResultsReadAsTheTableSays := by
  intro cfg i a b w h
  obtain ⟨hd, hw⟩ := transactionResult_eq_val h
  rw [decode_encode] at hd hw
  have hadmits := functionalResult_admitted hd hw
  refine ⟨hadmits, fun hi => (zeroOne_admits_iff w).mp ?_⟩
  rwa [readingOfResult_predicate i hi] at hadmits

/-! ## Transaction scripts (R53) -/

/-- A line the rules give a word collects that word, from every state. -/
theorem runScript_cons_of_val {l : Line} {words : List Word} {tr : Transaction} {w : Word}
    (rest : List Line) (s : State) (hl : l.transaction words = some tr)
    (hw : transactionResult config tr.op tr.a tr.b = .val w) :
    runScript (l :: rest) s words =
      runScript rest ((s.drive tr.op tr.a tr.b).setResult w) (words ++ [w]) := by
  have hstep : step (s.drive tr.op tr.a tr.b) = .next ((s.drive tr.op tr.a tr.b).setResult w) :=
    (gives_iff _ _ _ _).mpr hw _ rfl rfl rfl
  simp only [runScript, hl, hstep, State.setResult_r]

/-- What the rules gave at the first line of a script they give words. -/
theorem scriptWords_cons_eq_some {cfg : Config} {l : Line} {ls : List Line} {words ws : List Word}
    (h : scriptWords cfg (l :: ls) words = some ws) :
    ∃ tr w, l.transaction words = some tr ∧ transactionResult cfg tr.op tr.a tr.b = .val w ∧
      scriptWords cfg ls (words ++ [w]) = some ws := by
  obtain ⟨tr, htr, h⟩ := Option.bind_eq_some_iff.mp h
  split at h
  · next w hw => exact ⟨tr, w, htr, hw, h⟩
  · cases h

/-- A script collects the words the rules give, on top of any words collected before. -/
theorem runScript_of_scriptWords {ls : List Line} {words ws : List Word}
    (h : scriptWords config ls words = some ws) (s : State) :
    ∃ t, runScript ls s words = .ok (t, ws) := by
  induction ls generalizing words s with
  | nil =>
    obtain rfl : words = ws := Option.some.inj h
    exact ⟨s, rfl⟩
  | cons l ls ih =>
    obtain ⟨tr, w, hl, hw, hrest⟩ := scriptWords_cons_eq_some h
    rw [runScript_cons_of_val ls s hl hw]
    exact ih hrest _

/-- Settles O14: by induction on the lines, from no words. -/
theorem scriptsCollectTheResultsOfTheRules : Obligations.ScriptsCollectTheResultsOfTheRules :=
  fun _ _ h s => runScript_of_scriptWords h s

/-! ## The transaction word (R51) -/

theorem toWord_extract_op (t : Transaction) : t.toWord.extractLsb' 64 4 = t.op := by
  rw [Transaction.toWord, BitVec.extractLsb'_append_eq_of_le (by norm_num)]
  exact BitVec.extractLsb'_append_eq_left

theorem toWord_extract_a (t : Transaction) : t.toWord.extractLsb' 32 32 = t.a := by
  rw [Transaction.toWord, BitVec.extractLsb'_append_eq_of_le (by norm_num)]
  exact BitVec.extractLsb'_append_eq_right

theorem toWord_extract_b (t : Transaction) : t.toWord.extractLsb' 0 32 = t.b :=
  BitVec.extractLsb'_append_eq_right

theorem ofWord_toWord (t : Transaction) : Transaction.ofWord t.toWord = t := by
  rw [Transaction.ofWord, toWord_extract_op, toWord_extract_a, toWord_extract_b]

theorem toWord_ofWord (w : BitVec 68) : (Transaction.ofWord w).toWord = w := by
  simp only [Transaction.ofWord, Transaction.toWord]
  rw [BitVec.extractLsb'_append_extractLsb'_eq_extractLsb' (by norm_num),
    BitVec.extractLsb'_append_extractLsb'_eq_extractLsb' (by norm_num)]
  exact BitVec.extractLsb'_eq_self

/-! ## The printed form (R51) -/

theorem length_hexDigits (n w : Nat) : (hexDigits n w).length = n := by
  induction n with
  | zero => rfl
  | succ n ih => rw [hexDigits, List.length_cons, ih]

theorem hexValue_hexDigit {d : Nat} (h : d < 16) : hexValue (hexDigit d) = some d := by
  revert d
  decide

/-- Reading n digits appends the n low digits of the number they were written from. -/
theorem hexNumber_hexDigits (n w acc : Nat) :
    hexNumber (hexDigits n w) acc = some (acc * 16 ^ n + w % 16 ^ n) := by
  induction n generalizing acc with
  | zero => simp [hexDigits, hexNumber, Nat.mod_one]
  | succ n ih =>
    rw [hexDigits, hexNumber, hexValue_hexDigit (Nat.mod_lt _ (by norm_num)), Option.bind_eq_bind,
      Option.bind_some, ih, Nat.mod_pow_succ]
    congr 1
    ring

/-- A word written with enough digits is read back. -/
theorem hexNumber_hexDigits_toNat {k : Nat} (n : Nat) (v : BitVec k) (h : 2 ^ k ≤ 16 ^ n) :
    hexNumber (hexDigits n v.toNat) 0 = some v.toNat := by
  rw [hexNumber_hexDigits, Nat.zero_mul, Nat.zero_add, Nat.mod_eq_of_lt (v.isLt.trans_le h)]

theorem print_eq (t : Transaction) :
    t.print = hexDigits 1 t.op.toNat ++ '_' :: hexDigits 8 t.a.toNat ++ '_' :: hexDigits 8 t.b.toNat := by
  simp only [Transaction.print, List.append_assoc, List.cons_append, List.nil_append]

/-- Three groups of 1, 8 and 8 characters are read group by group. -/
theorem parse_groups {x y z : List Char} {op a b : Nat} (hx : x.length = 1) (hy : y.length = 8)
    (hz : z.length = 8) (hop : hexNumber x 0 = some op) (ha : hexNumber y 0 = some a)
    (hb : hexNumber z 0 = some b) :
    Transaction.parse (x ++ '_' :: y ++ '_' :: z) =
      some { op := BitVec.ofNat 4 op, a := BitVec.ofNat 32 a, b := BitVec.ofNat 32 b } := by
  obtain ⟨c, rfl⟩ := List.length_eq_one_iff.mp hx
  have htake : (y ++ '_' :: z).take 8 = y := List.take_left' hy
  have hdrop : (y ++ '_' :: z).drop 9 = z := by
    rw [← List.singleton_append, ← List.append_assoc]
    exact List.drop_left' (by simp [hy])
  have hzt : z.take 8 = z := List.take_of_length_le hz.le
  simp [Transaction.parse, htake, hdrop, hzt, hy, hz, hop, ha, hb]

theorem parse_print (t : Transaction) : Transaction.parse t.print = some t := by
  rw [print_eq, parse_groups (length_hexDigits 1 _) (length_hexDigits 8 _) (length_hexDigits 8 _)
    (hexNumber_hexDigits_toNat 1 t.op (by norm_num)) (hexNumber_hexDigits_toNat 8 t.a (by norm_num))
    (hexNumber_hexDigits_toNat 8 t.b (by norm_num))]
  simp only [BitVec.ofNat_toNat, BitVec.setWidth_eq]

/-! ## The canonical form (R51) -/

theorem canonical_a_of_ignored {t : Transaction} (h : readingOfA (decode t.op) = .ignored) :
    t.canonical.a = 0#32 := if_pos h

theorem canonical_b_of_ignored {t : Transaction} (h : readingOfB (decode t.op) = .ignored) :
    t.canonical.b = 0#32 := if_pos h

/-- Either port of the canonical form is as it was, or the operation ignores it. -/
theorem transactionResult_canonical (cfg : Config) (t : Transaction) :
    transactionResult cfg t.op t.canonical.a t.canonical.b = transactionResult cfg t.op t.a t.b := by
  have ha : transactionResult cfg t.op t.canonical.a t.canonical.b =
      transactionResult cfg t.op t.a t.canonical.b := by
    by_cases h : readingOfA (decode t.op) = .ignored
    · exact transactionResult_of_ignoredA cfg _ _ _ h
    · rw [show t.canonical.a = t.a from if_neg h]
  have hb : transactionResult cfg t.op t.a t.canonical.b = transactionResult cfg t.op t.a t.b := by
    by_cases h : readingOfB (decode t.op) = .ignored
    · exact transactionResult_of_ignoredB cfg _ _ _ h
    · rw [show t.canonical.b = t.b from if_neg h]
  exact ha.trans hb

/-- Settles O3: the fields of the word, the two directions, the printed form read back, the canonical form,
and the rule's example. -/
theorem transactionWordCarriesTheTransaction : Obligations.TransactionWordCarriesTheTransaction :=
  ⟨fun t => ⟨toWord_extract_op t, toWord_extract_a t, toWord_extract_b t⟩, ofWord_toWord, toWord_ofWord,
    fun t => ⟨print_eq t, parse_print t⟩,
    fun cfg t => ⟨rfl, canonical_a_of_ignored, canonical_b_of_ignored, transactionResult_canonical cfg t⟩,
    by decide⟩

end Sys2Proof.Machine
end

section
/-! PROOFS. The statements of 40_integer_family.md: the domains (R56), the functional result of each of the
twelve operations (R58 to R80) with the laws derived from them, and the reference datapaths, which give the
same words on the domains (R59 to R82). -/

namespace Sys2Proof.Machine

/-! ## Readings and bits of a word -/

theorem signed_inj {v w : Word} : signed v = signed w ↔ v = w := by
  rw [signed_eq_toInt, signed_eq_toInt, BitVec.toInt_inj]

@[simp] theorem word_signed (v : Word) : word (signed v) = v := by
  rw [word_eq_ofInt, signed_eq_toInt, BitVec.ofInt_toInt]

theorem signed_word {k : Int} (h : -(2 ^ 31) ≤ k) (h' : k < 2 ^ 31) : signed (word k) = k := by
  rw [signed_eq_toInt, word_eq_ofInt]
  exact BitVec.toInt_ofInt_eq_self (by norm_num) h h'

theorem word_add (j k : Int) : word (j + k) = word j + word k := by
  rw [word_eq_ofInt, BitVec.ofInt_add, word_eq_ofInt, word_eq_ofInt]

theorem word_neg (k : Int) : word (-k) = -word k := by
  rw [word_eq_ofInt, BitVec.ofInt_neg, word_eq_ofInt]

theorem word_sub (j k : Int) : word (j - k) = word j - word k := by
  rw [sub_eq_add_neg, word_add, word_neg, BitVec.sub_eq_add_neg]

theorem msb_eq_getLsbD_31 (v : Word) : v.msb = v.getLsbD 31 := BitVec.msb_eq_getLsbD_last v

theorem signed_neg_iff (v : Word) : signed v < 0 ↔ v.getLsbD 31 = true := by
  rw [← msb_eq_getLsbD_31, BitVec.msb_eq_toInt, signed_eq_toInt, decide_eq_true_eq]

theorem signed_nonneg_iff_getLsbD (v : Word) : 0 ≤ signed v ↔ v.getLsbD 31 = false := by
  rw [← not_lt, signed_neg_iff, Bool.not_eq_true]

theorem signed_pos_iff (v : Word) : 0 < signed v ↔ v.getLsbD 31 = false ∧ v ≠ 0#32 := by
  have hzero : signed v = 0 ↔ v = 0#32 := signed_inj (w := 0#32)
  rw [← signed_nonneg_iff_getLsbD, ne_eq, ← hzero]
  omega

/-- Inside its range a count is the same number in either reading. -/
theorem countOf_eq_toNat {n : Word} (h : 0 ≤ signed n) : countOf n = n.toNat := toNat_signed h

theorem getLsbD_boolWord (c : Bool) (i : Nat) : (boolWord c).getLsbD i = (decide (i = 0) && c) := by
  cases c
  · simp [boolWord]
  · simp [boolWord, BitVec.getLsbD_one]

theorem boolWord_eq_one_iff (c : Bool) : boolWord c = 1#32 ↔ c = true := by
  cases c <;> decide

theorem boolWord_eq_zero_iff (c : Bool) : boolWord c = 0#32 ↔ c = false := by
  cases c <;> decide

/-- The bits of a mask of k ones. -/
theorem getLsbD_lowMask (k i : Nat) :
    (BitVec.ofNat 32 (2 ^ k - 1)).getLsbD i = (decide (i < 32) && decide (i < k)) := by
  rw [BitVec.getLsbD_ofNat, Nat.testBit_two_pow_sub_one]

theorem word_neg_one : word (-1) = BitVec.allOnes 32 := by decide

/-- An arithmetic shift by 31 spreads the sign bit over the word. -/
theorem getLsbD_sshiftRight_31 (v : Word) {i : Nat} (hi : i < 32) :
    (v.sshiftRight 31).getLsbD i = v.getLsbD 31 := by
  rw [getLsbD_sshiftRight_word v 31 hi]
  split
  · rw [show i = 0 by omega]
  · rfl

theorem sshiftRight_31 (v : Word) :
    v.sshiftRight 31 = if v.getLsbD 31 then BitVec.allOnes 32 else 0#32 := by
  apply BitVec.eq_of_getLsbD_eq
  intro i hi
  rw [getLsbD_sshiftRight_31 v hi]
  cases v.getLsbD 31
  · simp
  · rw [if_pos rfl, BitVec.getLsbD_allOnes, decide_eq_true hi]

/-- Where a mask has only zeros above, the arithmetic shift may be taken for the logical one. -/
theorem sshiftRight_and_mask (v : Word) {m : Word} {k : Nat} (hm : m.toNat < 2 ^ (32 - k)) :
    v.sshiftRight k &&& m = v >>> k &&& m := by
  apply BitVec.eq_of_getLsbD_eq
  intro i hi
  rw [BitVec.getLsbD_and, BitVec.getLsbD_and, getLsbD_sshiftRight_word v k hi,
    BitVec.getLsbD_ushiftRight, Nat.add_comm k i]
  by_cases hik : i + k ≤ 31
  · rw [if_pos hik]
  · have hmi : m.getLsbD i = false :=
      Nat.testBit_lt_two_pow (hm.trans_le (Nat.pow_le_pow_right (by norm_num) (by omega)))
    rw [hmi, Bool.and_false, Bool.and_false]

/-- What an arithmetic shift that has a value computes. -/
theorem sarWord_eq_some {v s w : Word} (h : sarWord v s = some w) :
    (0 ≤ signed s ∧ s.toNat < 32) ∧ w = v.sshiftRight s.toNat := by
  have hs : s.toNat < 32 := by
    by_contra hs
    rw [sarWord_none v hs] at h
    cases h
  rw [sarWord_eq v hs] at h
  exact ⟨⟨(signed_nonneg_iff s).mpr (by omega), hs⟩, (Option.some.inj h).symm⟩

theorem signed_sshiftRight_eq_ediv (v : Word) (n : Nat) : signed (v.sshiftRight n) = signed v / 2 ^ n := by
  rw [signed_eq_toInt, signed_eq_toInt, BitVec.toInt_sshiftRight, Int.shiftRight_eq_div_pow]
  norm_cast

/-! ## What an operation gives, by its functional result -/

/-- A transaction gives its operation's functional result inside the domain, and nothing outside it. -/
theorem gives_iff_value {c : Code} {i : Instr} {a b v w : Word} (hi : decode c = i)
    (hv : functionalResult config i a b = some v) : Gives c a b w ↔ inDomain i a b = true ∧ v = w := by
  subst hi
  rw [gives_iff]
  constructor
  · intro h
    obtain ⟨hd, hw⟩ := transactionResult_eq_val h
    exact ⟨hd, Option.some.inj (hv.symm.trans hw)⟩
  · rintro ⟨hd, rfl⟩
    exact transactionResult_of_inDomain hd hv

/-- Inside its domain an operation completes with its functional result on `r` and nothing else changed. -/
theorem exec_of_value {i : Instr} {s : State} {v : Word}
    (hv : functionalResult config i s.a s.b = some v) (hd : inDomain i s.a s.b = true) :
    exec i s = .next { s with r := v } := by
  obtain ⟨w, hw, hexec⟩ := exec_of_inDomain hd
  obtain rfl := Option.some.inj (hv.symm.trans hw)
  exact hexec

theorem functionalResult_isSome (cfg : Config) {i : Instr} (a b : Word) (h : wellFormed i = true) :
    (functionalResult cfg i a b).isSome = true := by
  cases i with
  | reserved => cases h
  | _ => rfl

theorem transactionResult_eq_unspecified_iff (cfg : Config) {i : Instr} (a b : Word)
    (h : wellFormed i = true) :
    transactionResult cfg (encode i) a b = .unspecified ↔ inDomain i a b = false := by
  obtain ⟨w, hw⟩ := Option.isSome_iff_exists.mp (functionalResult_isSome cfg a b h)
  rw [← decode_encode i] at hw
  constructor
  · intro hres
    rw [← decode_encode i]
    by_contra hd
    rw [transactionResult_of_inDomain (Bool.not_eq_false _ ▸ hd) hw] at hres
    cases hres
  · intro hd
    exact transactionResult_of_outside (by rw [decode_encode, hd])

/-- Settles O16: the rows of the table are the domain lemmas, and inside its domain every operation has a
functional result. -/
theorem domainsAreTheDocumentedOnes : Obligations.DomainsAreTheDocumentedOnes := by
  refine ⟨fun i hi a b => ?_, fun a b => ⟨inDomain_getByte a b, inDomain_logicalShift a b,
    inDomain_fitsBits a b, inDomain_divpwr2 a b, inDomain_ilog2 a b⟩,
    fun cfg i a b h => transactionResult_eq_unspecified_iff cfg a b h⟩
  fin_cases hi <;> rfl

/-! ## `bitAnd` (R58) -/

/-- Settles O25: the machine's AND is `BitVec`'s, whose bits are known. -/
theorem bitAndIsTheBitwiseAnd : Obligations.BitAndIsTheBitwiseAnd :=
  ⟨decode_bitAnd, fun s => ⟨bitAndValue s.a s.b, exec_of_value rfl rfl, fun _ _ =>
    BitVec.getLsbD_and⟩⟩

/-! ## `getByte` (R60) -/

theorem getLsbD_getByteValue (x n : Word) (i : Nat) :
    (getByteValue x n).getLsbD i = (decide (i < 8) && x.getLsbD (8 * countOf n + i)) := by
  rw [getByteValue, byteOf, BitVec.getLsbD_setWidth, BitVec.getLsbD_extractLsb']
  by_cases hi : i < 8
  · simp [hi, show i < 32 by omega]
  · simp [hi]

/-- The byte is what a logical shift brings down to the low eight bits. -/
theorem getByteValue_eq_shift_and (x n : Word) : getByteValue x n = x >>> (8 * countOf n) &&& 0xFF#32 := by
  apply BitVec.eq_of_getLsbD_eq
  intro i hi
  have hmask : (0xFF#32 : Word).getLsbD i = (decide (i < 32) && decide (i < 8)) := getLsbD_lowMask 8 i
  rw [getLsbD_getByteValue, BitVec.getLsbD_and, BitVec.getLsbD_ushiftRight, hmask, decide_eq_true hi,
    Bool.true_and, Bool.and_comm]

/-- Settles O26: the bits of `getByteValue`, its bound, and the mask form for byte 0. -/
theorem getByteExtractsAByte : Obligations.GetByteExtractsAByte := by
  refine ⟨decode_getByte, fun s h0 h3 => ?_, fun cfg a b h => transactionResult_of_outside ?_,
    fun x => (gives_iff_value decode_getByte rfl).mpr ⟨rfl, getByteValue_eq_shift_and x 0#32⟩, ?_, ?_, ?_⟩
  · refine ⟨getByteValue s.a s.b, exec_of_value rfl ((inDomain_getByte s.a s.b).mpr ⟨h0, h3⟩),
      fun i hi => ?_, fun i hi => ?_, ?_⟩
    · rw [getLsbD_getByteValue, decide_eq_true hi, Bool.true_and]
      rfl
    · rw [getLsbD_getByteValue, decide_eq_false (Nat.not_lt.mpr hi), Bool.false_and]
    · simpa [ResultReading.admits] using upTo_admits (getByteValue_le s.a s.b) (by norm_num)
  · rw [decode_getByte, Bool.eq_false_iff, ne_eq, inDomain_getByte]
    omega
  all_goals exact (gives_iff_value decode_getByte rfl).mpr (by decide)

/-! ## `logicalShift` (R62) -/

theorem logicalShiftValue_eq (x n : Word) : logicalShiftValue x n = x >>> countOf n := by
  apply BitVec.eq_of_toNat_eq
  have hdiv : (unsigned x : Int) / 2 ^ countOf n = ((x.toNat / 2 ^ countOf n : Nat) : Int) := by
    push_cast
    rfl
  have hlt : x.toNat / 2 ^ countOf n < 2 ^ 32 := (Nat.div_le_self _ _).trans_lt x.isLt
  rw [logicalShiftValue, hdiv, toNat_word_natCast hlt, BitVec.toNat_ushiftRight, Nat.shiftRight_eq_div_pow]

/-- Only the sign bit is left of a word moved down by 31. -/
theorem ushiftRight_31 (v : Word) : v >>> 31 = boolWord (v.getLsbD 31) := by
  apply BitVec.eq_of_getLsbD_eq
  intro i _
  rw [BitVec.getLsbD_ushiftRight, getLsbD_boolWord]
  by_cases hi : i = 0
  · simp [hi]
  · simp [hi, BitVec.getLsbD_of_ge v (31 + i) (by omega)]

theorem gives_logicalShift_iff {x n w : Word} (h0 : 0 ≤ signed n) (h31 : signed n ≤ 31) :
    Gives 0x2#4 x n w ↔ x >>> n.toNat = w := by
  rw [gives_iff_value decode_logicalShift rfl, inDomain_logicalShift, logicalShiftValue_eq,
    countOf_eq_toNat h0]
  exact and_iff_right ⟨h0, h31⟩

/-- On a word that is not negative the arithmetic shift is the logical one. -/
theorem sshiftRight_of_getLsbD_31_false {v : Word} (h : v.getLsbD 31 = false) (n : Nat) :
    v.sshiftRight n = v >>> n :=
  BitVec.sshiftRight_eq_of_msb_false ((msb_eq_getLsbD_31 v).trans h)

/-- Settles O27: `logicalShiftValue` is `BitVec`'s logical shift, whose number and bits are known. -/
theorem logicalShiftFillsWithZeros : Obligations.LogicalShiftFillsWithZeros := by
  refine ⟨decode_logicalShift, fun s h0 h31 => ?_, fun cfg a b h => transactionResult_of_outside ?_,
    fun x => ⟨?_, ?_⟩, fun x n w hx hw => ?_, ?_⟩
  · refine ⟨logicalShiftValue s.a s.b, exec_of_value rfl ((inDomain_logicalShift _ _).mpr ⟨h0, h31⟩), ?_⟩
    rw [logicalShiftValue_eq]
    refine ⟨Nat.shiftRight_eq_div_pow _ _, fun i _ => ?_⟩
    rw [BitVec.getLsbD_ushiftRight, Nat.add_comm (countOf s.b) i]
    split
    · rfl
    · exact BitVec.getLsbD_of_ge _ _ (Nat.lt_of_not_le ‹_›)
  · rw [decode_logicalShift, Bool.eq_false_iff, ne_eq, inDomain_logicalShift]
    omega
  · exact (gives_logicalShift_iff (by decide) (by decide)).mpr (BitVec.ushiftRight_zero x)
  · exact (gives_logicalShift_iff (by decide) (by decide)).mpr (ushiftRight_31 x)
  · obtain ⟨⟨h0, hn⟩, rfl⟩ := sarWord_eq_some hw
    have h31 : signed n ≤ 31 := by
      have := toNat_signed h0
      omega
    exact (gives_logicalShift_iff h0 h31).mpr (sshiftRight_of_getLsbD_31_false hx n.toNat).symm
  · exact (gives_iff_value decode_logicalShift rfl).mpr (by decide)

/-! ## `bitCount` (R64) -/

theorem bitSum_eq_sum (x : Word) : bitSum x = ∑ i ∈ Finset.range 32, (x.getLsbD i).toNat := rfl

/-- The sum of the bits is the number of places that hold a 1. -/
theorem bitSum_eq_card (x : Word) :
    bitSum x = (Finset.univ.filter fun i : Fin 32 => x.getLsbD i = true).card := by
  rw [bitSum_eq_sum, ← Fin.sum_univ_eq_sum_range fun i => (x.getLsbD i).toNat, Finset.card_filter]
  refine Finset.sum_congr rfl fun i _ => ?_
  cases x.getLsbD i <;> rfl

theorem unsigned_bitCountValue (x : Word) : unsigned (bitCountValue x) = bitSum x :=
  toNat_word_natCast (by have := bitSum_le x; omega)

/-- A count is at most 32, so its two readings agree. -/
theorem signed_bitCountValue (x : Word) : signed (bitCountValue x) = bitSum x := by
  have h0 : 0 ≤ signed (bitCountValue x) := (signed_nonneg_iff _).mpr (by have := bitCountValue_le x; omega)
  rw [signed_eq_unsigned_of_nonneg h0, unsigned_bitCountValue]

/-- A word whose bits sum to 32 has no 0 bit. -/
theorem eq_allOnes_of_bitSum {x : Word} (h : bitSum x = 32) : x = BitVec.allOnes 32 := by
  rw [bitSum_eq_card] at h
  have hall := (Finset.card_eq_iff_eq_univ _).mp (h.trans (Fintype.card_fin 32).symm)
  apply BitVec.eq_of_getLsbD_eq
  intro i hi
  rw [BitVec.getLsbD_allOnes, decide_eq_true hi]
  exact Finset.filter_eq_self.mp hall ⟨i, hi⟩ (Finset.mem_univ _)

/-- Every place holds a 1 in a word or in its complement. -/
theorem bitSum_not_add (x : Word) : bitSum x + bitSum (~~~x) = 32 := by
  have hcompl : (Finset.univ.filter fun i : Fin 32 => (~~~x).getLsbD i = true) =
      Finset.univ.filter fun i : Fin 32 => ¬ x.getLsbD i = true :=
    Finset.filter_congr fun i _ => by simp
  rw [bitSum_eq_card, bitSum_eq_card, hcompl, Finset.card_filter_add_card_filter_not]
  rfl

theorem gives_bitCount_iff {x b w : Word} : Gives 0x3#4 x b w ↔ bitCountValue x = w :=
  (gives_iff_value decode_bitCount rfl).trans (and_iff_right rfl)

/-- Settles O28: the count is the number of places with a 1 bit, and 32 leaves no place without one. -/
theorem bitCountCountsTheOneBits : Obligations.BitCountCountsTheOneBits := by
  refine ⟨decode_bitCount, fun s => ⟨bitCountValue s.a, exec_of_value rfl rfl, ?_, ?_⟩,
    fun b x h => ?_, fun b => ?_⟩
  · rw [unsigned_bitCountValue, bitSum_eq_card]
  · have := bitSum_le s.a
    rw [signed_bitCountValue]
    omega
  · have h32 : bitSum x = 32 := by
      rw [← unsigned_bitCountValue, gives_bitCount_iff.mp h]
      rfl
    rw [word_neg_one, eq_allOnes_of_bitSum h32]
  · simp only [gives_bitCount_iff]
    decide

/-! ## `bang` (R66) -/

theorem bangValue_eq_one_iff (x : Word) : bangValue x = 1#32 ↔ x = 0#32 := by
  rw [bangValue, boolWord_eq_one_iff, isZeroWord, beq_iff_eq]

theorem bangValue_of_ne_zero {x : Word} (h : x ≠ 0#32) : bangValue x = 0#32 := by
  rw [bangValue, boolWord_eq_zero_iff, isZeroWord, beq_eq_false_iff_ne]
  exact h

theorem gives_bang_iff {x b w : Word} : Gives 0x4#4 x b w ↔ bangValue x = w :=
  (gives_iff_value decode_bang rfl).trans (and_iff_right rfl)

/-- Settles O29: a word without a 1 bit is the word 0. -/
theorem bangTestsForZero : Obligations.BangTestsForZero := by
  refine ⟨decode_bang, fun s => ⟨bangValue s.a, exec_of_value rfl rfl, fun h => ?_, fun ⟨i, _, h⟩ => ?_⟩,
    fun b => ?_⟩
  · refine (bangValue_eq_one_iff s.a).mpr (BitVec.eq_of_getLsbD_eq fun i hi => ?_)
    rw [h i hi, BitVec.getLsbD_zero]
  · refine bangValue_of_ne_zero fun h0 => ?_
    rw [h0, BitVec.getLsbD_zero] at h
    cases h
  · simp only [gives_bang_iff]
    decide

/-! ## `tmin` (R68) -/

/-- Settles O30: the domain is every pair of words, and no signed reading is below −2^31. -/
theorem tminIsTheMinimumWord : Obligations.TminIsTheMinimumWord :=
  ⟨decode_tmin, by decide, fun v => (signed_bounds v).1, fun _ => exec_of_value rfl rfl⟩

/-! ## `fitsBits` (R70) -/

/-- The range of n bits is where shifting out the n − 1 low bits leaves the sign alone. -/
theorem fitsIn_iff_sshiftRight (x : Word) (n : Nat) :
    fitsIn x n = true ↔ x.sshiftRight (n - 1) = x.sshiftRight 31 := by
  obtain ⟨hlo, hhi⟩ := signed_bounds x
  have hpow : (0 : Int) < 2 ^ (n - 1) := by positivity
  rw [← signed_inj, signed_sshiftRight_eq_ediv, signed_sshiftRight_eq_ediv, fitsIn, Bool.and_eq_true,
    decide_eq_true_eq, decide_eq_true_eq, Int.ediv_eq_iff_of_pos hpow]
  rcases lt_or_ge (signed x) 0 with hneg | hpos
  · have hsign : signed x / 2 ^ 31 = -1 := by omega
    rw [hsign]
    omega
  · have hsign : signed x / 2 ^ 31 = 0 := by omega
    rw [hsign]
    omega

/-- The sign alone is left where the bits from n − 1 up are copies of bit 31. -/
theorem fitsIn_iff_bits {x : Word} {n : Nat} :
    fitsIn x n = true ↔ ∀ i, n - 1 ≤ i → i ≤ 31 → x.getLsbD i = x.getLsbD 31 := by
  rw [fitsIn_iff_sshiftRight]
  constructor
  · intro h i hi hi31
    have hbit := getLsbD_sshiftRight_word x (n - 1) (i := i - (n - 1)) (by omega)
    rw [h, getLsbD_sshiftRight_31 x (by omega), Nat.sub_add_cancel hi, if_pos hi31] at hbit
    exact hbit.symm
  · intro h
    apply BitVec.eq_of_getLsbD_eq
    intro i hi
    rw [getLsbD_sshiftRight_31 x hi, getLsbD_sshiftRight_word x (n - 1) hi]
    split
    · exact h _ (Nat.le_add_left _ _) ‹_›
    · rfl

theorem gives_fitsBits_iff {x n w : Word} (h1 : 1 ≤ signed n) (h32 : signed n ≤ 32) :
    Gives 0x6#4 x n w ↔ fitsBitsValue x n = w := by
  rw [gives_iff_value decode_fitsBits rfl, inDomain_fitsBits]
  exact and_iff_right ⟨h1, h32⟩

theorem fitsBitsValue_eq_one_iff (x n : Word) : fitsBitsValue x n = 1#32 ↔ fitsIn x (countOf n) = true :=
  boolWord_eq_one_iff _

theorem fitsIn_iff (x : Word) (n : Nat) :
    fitsIn x n = true ↔ -(2 ^ (n - 1) : Int) ≤ signed x ∧ signed x ≤ 2 ^ (n - 1) - 1 := by
  rw [fitsIn, Bool.and_eq_true, decide_eq_true_eq, decide_eq_true_eq]

/-- One bit holds the words 0 and −1 alone. -/
theorem fitsIn_one_iff (x : Word) : fitsIn x 1 = true ↔ x = 0#32 ∨ x = word (-1) := by
  have h0 : signed x = 0 ↔ x = 0#32 := signed_inj (w := 0#32)
  have h1 : signed x = -1 ↔ x = word (-1) := signed_inj (w := word (-1))
  rw [fitsIn_iff, ← h0, ← h1, Nat.sub_self, pow_zero]
  omega

/-- Settles O31: the range test by its definition and by the bits; every word is in the range of 32 bits. -/
theorem fitsBitsTestsTheRange : Obligations.FitsBitsTestsTheRange := by
  refine ⟨decode_fitsBits, fun s h1 h32 => ⟨fitsBitsValue s.a s.b,
    exec_of_value rfl ((inDomain_fitsBits s.a s.b).mpr ⟨h1, h32⟩),
    (zeroOne_admits_iff _).mp (zeroOne_admits_boolWord _),
    (fitsBitsValue_eq_one_iff s.a s.b).trans (fitsIn_iff s.a _),
    (fitsBitsValue_eq_one_iff s.a s.b).trans fitsIn_iff_bits⟩,
    fun cfg a b h => transactionResult_of_outside ?_, fun x => ⟨?_, ?_⟩, ?_, ?_⟩
  · rw [decode_fitsBits, Bool.eq_false_iff, ne_eq, inDomain_fitsBits]
    omega
  · rw [gives_fitsBits_iff (by decide) (by decide), fitsBitsValue_eq_one_iff]
    exact (fitsIn_iff x 32).mpr (signed_bounds x)
  · rw [gives_fitsBits_iff (by decide) (by decide), fitsBitsValue_eq_one_iff]
    exact fitsIn_one_iff x
  all_goals exact (gives_iff_value decode_fitsBits rfl).mpr (by decide)

/-! ## `divpwr2` (R72) -/

/-- R72's two floors are one truncated quotient. -/
theorem divpwr2Value_eq (x n : Word) : divpwr2Value x n = word ((signed x).tdiv (2 ^ countOf n)) := by
  rw [divpwr2Value]
  congr 1
  split
  · exact (Int.tdiv_eq_ediv_of_nonneg ‹_›).symm
  · rw [← Int.tdiv_eq_ediv_of_nonneg (by omega), Int.neg_tdiv, neg_neg]

theorem abs_tdiv_le (x d : Int) : |x.tdiv d| ≤ |x| := by
  have := Int.natAbs_tdiv_le_natAbs x d
  rw [Int.abs_eq_natAbs, Int.abs_eq_natAbs]
  exact_mod_cast this

/-- The quotient is no larger in magnitude than the dividend, so it is a word's reading. -/
theorem signed_divpwr2Value (x n : Word) : signed (divpwr2Value x n) = (signed x).tdiv (2 ^ countOf n) := by
  obtain ⟨hlo, hhi⟩ := signed_bounds x
  have habs := abs_le.mp (abs_tdiv_le (signed x) (2 ^ countOf n))
  rw [divpwr2Value_eq]
  rcases lt_or_ge (signed x) 0 with hneg | hpos
  · have hq : (signed x).tdiv (2 ^ countOf n) ≤ 0 := by
      have := Int.tdiv_nonneg (a := -signed x) (b := 2 ^ countOf n) (by omega) (by positivity)
      rw [Int.neg_tdiv] at this
      omega
    rw [abs_of_neg hneg] at habs
    exact signed_word (by omega) (by omega)
  · rw [abs_of_nonneg hpos] at habs
    exact signed_word (by omega) (by omega)

/-- The truncated quotient is the one whose remainder is below the divisor in magnitude and is zero or has
the dividend's sign. -/
theorem eq_tdiv_iff {x d q m : Int} (hd : 0 < d) :
    (x = q * d + m ∧ |m| < d ∧ (m = 0 ∨ (0 < m ∧ 0 < x) ∨ (m < 0 ∧ x < 0))) ↔
      q = x.tdiv d ∧ m = x - x.tdiv d * d := by
  have hnat : (d.natAbs : Int) = d := Int.natAbs_of_nonneg hd.le
  have hmod : x.tmod d = x - x.tdiv d * d := by rw [Int.tmod_def, mul_comm]
  have hcomm : m + d * q = x ↔ x = q * d + m := by rw [mul_comm, add_comm, eq_comm]
  rw [← hmod, eq_comm (a := q), eq_comm (a := m) (b := x.tmod d), abs_lt]
  rcases lt_or_ge x 0 with hneg | hpos
  · rw [Int.tdiv_tmod_unique' hneg.le hd.ne', hnat, hcomm]
    omega
  · rw [Int.tdiv_tmod_unique hpos hd.ne', hnat, hcomm]
    have hzero (hx : x = q * d + m) (h0 : 0 ≤ m) (hm : m < d) (hx0 : x = 0) : m = 0 :=
      Int.eq_zero_of_dvd_of_nonneg_of_lt h0 hm ⟨-q, by linarith⟩
    constructor
    · rintro ⟨hx, ⟨-, hm⟩, hsign⟩
      exact ⟨hx, by omega, hm⟩
    · rintro ⟨hx, h0, hm⟩
      have := hzero hx h0 hm
      exact ⟨hx, ⟨by omega, hm⟩, by omega⟩

theorem gives_divpwr2_iff {x n w : Word} (h0 : 0 ≤ signed n) (h30 : signed n ≤ 30) :
    Gives 0x7#4 x n w ↔ divpwr2Value x n = w := by
  rw [gives_iff_value decode_divpwr2 rfl, inDomain_divpwr2]
  exact and_iff_right ⟨h0, h30⟩

/-- On a word that is not negative, rounding toward zero is rounding down. -/
theorem divpwr2Value_of_nonneg {x n : Word} (hx : 0 ≤ signed x) (hn : 0 ≤ signed n) :
    divpwr2Value x n = x.sshiftRight n.toNat := by
  rw [← signed_inj, signed_divpwr2Value, signed_sshiftRight_eq_ediv, Int.tdiv_eq_ediv_of_nonneg hx,
    countOf_eq_toNat hn]

/-- Settles O32: both floors and the remainder's conditions name the truncated quotient. -/
theorem divpwr2RoundsTowardZero : Obligations.Divpwr2RoundsTowardZero := by
  refine ⟨decode_divpwr2, fun s h0 h30 => ?_, fun cfg a b h => transactionResult_of_outside ?_, fun x => ?_,
    fun x n w hx hn hw => ?_, ?_⟩
  · refine ⟨divpwr2Value s.a s.b, exec_of_value rfl ((inDomain_divpwr2 s.a s.b).mpr ⟨h0, h30⟩), ?_⟩
    rw [signed_divpwr2Value, countOf]
    refine ⟨Int.tdiv_eq_ediv_of_nonneg, fun hneg => ?_, fun q m => eq_tdiv_iff (by positivity)⟩
    rw [← Int.tdiv_eq_ediv_of_nonneg (by omega), Int.neg_tdiv, neg_neg]
  · rw [decode_divpwr2, Bool.eq_false_iff, ne_eq, inDomain_divpwr2]
    omega
  · rw [gives_divpwr2_iff (by decide) (by decide), ← signed_inj, signed_divpwr2Value]
    exact Int.tdiv_one (signed x)
  · obtain ⟨⟨h0, -⟩, rfl⟩ := sarWord_eq_some hw
    rw [gives_divpwr2_iff h0 hn, divpwr2Value_of_nonneg hx h0]
  · simp only [gives_iff_value decode_divpwr2 rfl]
    decide

/-! ## `negate` (R74) -/

theorem negateValue_eq_neg (x : Word) : negateValue x = -x := by
  rw [negateValue, word_neg, word_signed]

theorem neg_eq_self_iff_word (x : Word) : -x = x ↔ x = 0#32 ∨ x = 0x80000000#32 := by
  bv_omega

theorem gives_negate_iff {x b w : Word} : Gives 0x8#4 x b w ↔ -x = w := by
  rw [gives_iff_value decode_negate rfl, negateValue_eq_neg]
  exact and_iff_right rfl

/-- Settles O33: `negateValue` is `BitVec`'s negation, whose readings are known. -/
theorem negateIsTwosComplement : Obligations.NegateIsTwosComplement := by
  refine ⟨decode_negate, fun s => ⟨negateValue s.a, exec_of_value rfl rfl, rfl, ?_, fun hmin => ?_⟩,
    fun b x => gives_negate_iff.trans (neg_eq_self_iff_word x), fun b => gives_negate_iff.mpr (by decide)⟩
  · rw [negateValue_eq_neg]
    exact BitVec.toNat_neg s.a
  · rw [negateValue_eq_neg, signed_eq_toInt, signed_eq_toInt]
    exact BitVec.toInt_neg_of_ne_intMin hmin

/-! ## `isPositive` (R76) -/

theorem gives_isPositive_iff {x b w : Word} : Gives 0x9#4 x b w ↔ isPositiveValue x = w :=
  (gives_iff_value decode_isPositive rfl).trans (and_iff_right rfl)

/-- Settles O34: positive is sign bit clear and not zero. -/
theorem isPositiveTestsTheSign : Obligations.IsPositiveTestsTheSign := by
  refine ⟨decode_isPositive, fun s => ⟨isPositiveValue s.a, exec_of_value rfl rfl, rfl, ?_⟩, fun b => ?_⟩
  · rw [isPositiveValue, boolWord_eq_one_iff, isPositiveWord, decide_eq_true_eq, signed_pos_iff]
  · simp only [gives_isPositive_iff]
    decide

/-! ## `isLessOrEqual` (R78) -/

theorem isLessOrEqualValue_eq_one_iff (x y : Word) : isLessOrEqualValue x y = 1#32 ↔ signed x ≤ signed y := by
  rw [isLessOrEqualValue, boolWord_eq_one_iff, isAtMost, decide_eq_true_eq]

/-- Of two words with opposite signs the negative one is the lesser. -/
theorem isAtMost_of_sign_ne {x y : Word} (h : x.getLsbD 31 ≠ y.getLsbD 31) :
    isAtMost x y = x.getLsbD 31 := by
  have hy : y.getLsbD 31 = !x.getLsbD 31 := Bool.eq_not.mpr h.symm
  rw [isAtMost]
  cases hx : x.getLsbD 31
  · have hx0 := (signed_nonneg_iff_getLsbD x).mpr hx
    have hy0 := (signed_neg_iff y).mpr (by rw [hy, hx, Bool.not_false])
    exact decide_eq_false (by omega)
  · have hx0 := (signed_neg_iff x).mpr hx
    have hy0 := (signed_nonneg_iff_getLsbD y).mpr (by rw [hy, hx, Bool.not_true])
    exact decide_eq_true (by omega)

/-- Settles O35: equal words compare by reflexivity, opposite signs by `isAtMost_of_sign_ne`. -/
theorem isLessOrEqualComparesSigned : Obligations.IsLessOrEqualComparesSigned := by
  refine ⟨decode_isLessOrEqual, fun s => ⟨isLessOrEqualValue s.a s.b, exec_of_value rfl rfl, rfl,
    fun h => (isLessOrEqualValue_eq_one_iff s.a s.b).mpr (h ▸ le_rfl), fun h => ?_⟩, ?_⟩
  · rw [isLessOrEqualValue, boolWord_eq_one_iff, isAtMost_of_sign_ne h]
  · simp only [gives_iff_value decode_isLessOrEqual rfl]
    decide

/-! ## `ilog2` (R80) -/

/-- The highest 1 bit of a positive word, as the binary logarithm of the standard library. -/
theorem highestBit_eq_log2 {m : Nat} (hm : m < 2 ^ 32) (h0 : 0 < m) : highestBit m = m.log2 :=
  ((Nat.log2_eq_iff h0.ne').mpr (highestBit_spec m hm h0)).symm

/-- Settles O36: the bounds of the highest 1 bit, and the bits they fix. -/
theorem ilog2IsTheFloorOfTheLogarithm : Obligations.Ilog2IsTheFloorOfTheLogarithm := by
  refine ⟨decode_ilog2, fun s hpos => ?_, fun cfg a b h => transactionResult_of_outside ?_, fun b => ?_⟩
  · have hreading : signed s.a = (unsigned s.a : Int) := signed_eq_unsigned_of_nonneg hpos.le
    have h0 : 0 < unsigned s.a := by omega
    obtain ⟨hle, hlt⟩ := highestBit_spec (unsigned s.a) s.a.isLt h0
    refine ⟨highestBit (unsigned s.a), exec_of_value rfl ((inDomain_ilog2 s.a s.b).mpr hpos),
      highestBit_le_of_signed_pos hpos, ?_, ?_, ?_, fun i hi => ?_⟩
    · rw [hreading]
      exact_mod_cast hle
    · rw [hreading]
      exact_mod_cast hlt
    · rw [highestBit_eq_log2 (m := unsigned s.a) s.a.isLt h0]
      exact Nat.testBit_log2 h0.ne'
    · exact Nat.testBit_lt_two_pow (hlt.trans_le (Nat.pow_le_pow_right (by norm_num) hi))
  · rw [decode_ilog2, Bool.eq_false_iff, ne_eq, inDomain_ilog2]
    omega
  · simp only [gives_iff_value decode_ilog2 rfl, inDomain_ilog2]
    decide

/-! ## The derived laws of R58, R64, R72 and R74 -/

theorem gives_bitAnd_iff {x y w : Word} : Gives 0x0#4 x y w ↔ x &&& y = w :=
  (gives_iff_value decode_bitAnd rfl).trans (and_iff_right rfl)

/-- Settles O37: the laws of `BitVec`'s AND and negation, the two counts that fill the word, and the bound of
the truncated quotient. -/
theorem derivedLawsOfTheIntegerFamily : Obligations.DerivedLawsOfTheIntegerFamily := by
  refine ⟨fun x y w => ⟨gives_bitAnd_iff.mpr BitVec.and_zero, ?_, gives_bitAnd_iff.mpr BitVec.and_self,
    fun h => ?_⟩, fun x b v w hv hw => ?_, fun x n w hd h => ?_, fun x b w h => ?_⟩
  · rw [gives_bitAnd_iff, word_neg_one, BitVec.and_allOnes]
  · rw [gives_bitAnd_iff, BitVec.and_comm]
    exact gives_bitAnd_iff.mp h
  · obtain rfl := gives_bitCount_iff.mp hv
    obtain rfl := gives_bitCount_iff.mp hw
    have := bitSum_not_add x
    rw [signed_bitCountValue, signed_bitCountValue]
    omega
  · obtain ⟨h0, h30⟩ := (inDomain_divpwr2 x n).mp hd
    obtain rfl := (gives_divpwr2_iff h0 h30).mp h
    rw [signed_divpwr2Value]
    exact abs_tdiv_le (signed x) _
  · obtain rfl := gives_negate_iff.mp h
    exact gives_negate_iff.mpr (BitVec.neg_neg)

/-! ## The datapaths of `bitAnd`, `negate` and `tmin` (R59, R69, R75) -/

theorem bitAndLines_value (a b : Word) : evalLines a b bitAndLines [] = some (bitAndValue a b) := by
  rw [bitAndLines_eval, BitVec.not_or, BitVec.not_not, BitVec.not_not]
  rfl

theorem negateLines_value (a b : Word) : evalLines a b negateLines [] = some (negateValue a) := by
  rw [negateLines_eval, negateValue_eq_neg, BitVec.neg_eq_not_add]

theorem tminLines_value (a b : Word) : evalLines a b tminLines [] = some tminValue := by
  rw [tminLines_eval, shlWord_eq _ (by decide)]
  rfl

/-! ## The datapath of `getByte` (R61) -/

/-- Settles O48: for n at most 3 the amount is 8n, and the mask drops what the sign filled in. -/
theorem getByteDatapathIsRight : Obligations.GetByteDatapathIsRight := by
  intro a b hd
  obtain ⟨h0, h3⟩ := (inDomain_getByte a b).mp hd
  have hb : b.toNat ≤ 3 := toNat_le_of_signed h0 h3
  have hs : (b <<< 3).toNat = 8 * b.toNat := by
    rw [BitVec.toNat_shiftLeft, Nat.shiftLeft_eq, Nat.mod_eq_of_lt (by omega)]
    omega
  have hmask : (0xFF#32 : Word).toNat < 2 ^ (32 - 8 * b.toNat) :=
    lt_of_lt_of_le (by decide : (0xFF#32 : Word).toNat < 2 ^ 8) (Nat.pow_le_pow_right (by norm_num) (by omega))
  have hsar : sarWord a (b <<< 3) = some (a.sshiftRight (8 * b.toNat)) := by
    rw [sarWord_eq a (by omega), hs]
  have hshl : shlWord b 3#32 = some (b <<< 3) := shlWord_eq b (by decide)
  simp only [getByteLines_eval, hshl, hsar, Option.bind_eq_bind, Option.bind_some]
  rw [sshiftRight_and_mask a hmask, getByteValue_eq_shift_and, countOf_eq_toNat h0]

/-! ## The datapath of `logicalShift` (R63) -/

/-- The n places the sign can fill in are those the mask `~(((1 << 31) >>a n) << 1)` clears. -/
theorem getLsbD_fillMask {n i : Nat} (hn : n ≤ 31) (hi : i < 32) :
    (~~~(((0x80000000#32 : Word).sshiftRight n) <<< 1)).getLsbD i = decide (i + n ≤ 31) := by
  have hmin (k : Nat) (hk : k < 32) : (0x80000000#32 : Word).getLsbD k = decide (k = 31) := by
    revert k
    decide
  rw [BitVec.getLsbD_not, BitVec.getLsbD_shiftLeft, decide_eq_true hi, Bool.true_and, Bool.true_and]
  by_cases h1 : i < 1
  · simp [h1, show i + n ≤ 31 by omega]
  · rw [getLsbD_sshiftRight_word _ n (by omega), hmin 31 (by omega), decide_eq_false h1, Bool.not_false,
      Bool.true_and, Bool.not_eq_eq_eq_not, ← decide_not]
    split
    · rw [hmin _ (by omega), decide_eq_decide]
      omega
    · simp only [decide_true, Bool.true_eq, decide_eq_true_eq]
      omega

/-- Settles O49: the mask keeps the bits that came from a and clears the rest. -/
theorem logicalShiftDatapathIsRight : Obligations.LogicalShiftDatapathIsRight := by
  intro a b hd
  obtain ⟨h0, h31⟩ := (inDomain_logicalShift a b).mp hd
  have hb : b.toNat ≤ 31 := toNat_le_of_signed h0 h31
  have hb32 : b.toNat < 32 := by omega
  have hmin : shlWord 1#32 31#32 = some 0x80000000#32 := by decide
  have hshl (v : Word) : shlWord v 1#32 = some (v <<< 1) := shlWord_eq v (by decide)
  have hvalue : a.sshiftRight b.toNat &&& ~~~((0x80000000#32 : Word).sshiftRight b.toNat <<< 1) =
      a >>> b.toNat := by
    apply BitVec.eq_of_getLsbD_eq
    intro i hi
    rw [BitVec.getLsbD_and, getLsbD_fillMask hb hi, getLsbD_sshiftRight_word a _ hi,
      BitVec.getLsbD_ushiftRight, Nat.add_comm b.toNat i]
    by_cases hin : i + b.toNat ≤ 31
    · simp [hin]
    · simp [hin, BitVec.getLsbD_of_ge a (i + b.toNat) (by omega)]
  simp only [logicalShiftLines_eval, hmin, hshl, sarWord_eq _ hb32, Option.bind_eq_bind, Option.bind_some]
  rw [hvalue, logicalShiftValue_eq, countOf_eq_toNat h0]

/-! ## The datapaths of `bang` and `isPositive` (R67, R77) -/

/-- A word or its negation is negative, unless it is 0. -/
theorem getLsbD_31_or_neg (v : Word) : (v ||| -v).getLsbD 31 = !isZeroWord v := by
  rw [← msb_eq_getLsbD_31, BitVec.msb_or, BitVec.msb_neg, isZeroWord]
  by_cases h0 : v = 0#32
  · subst h0
    decide
  · by_cases hmin : v = BitVec.intMin 32
    · subst hmin
      decide
    · rw [bne_iff_ne.mpr h0, bne_iff_ne.mpr hmin, beq_eq_false_iff_ne.mpr h0]
      cases v.msb <;> rfl

/-- `!v` in a datapath is the word `bang` gives. -/
theorem bangWord_eq (v : Word) : bangWord v = some (bangValue v) := by
  have hsar : sarWord (v ||| -v) 31#32 = some ((v ||| -v).sshiftRight 31) := sarWord_eq _ (by decide)
  rw [bangWord, ← BitVec.neg_eq_not_add, hsar, sshiftRight_31, getLsbD_31_or_neg, bangValue]
  cases isZeroWord v <;> rfl

/-- R77: the sign mask and the zero test are both 0 exactly for a positive word. -/
theorem signMask_or_bang (a : Word) :
    isZeroWord (a.sshiftRight 31 ||| bangValue a) = isPositiveWord a := by
  rw [Bool.eq_iff_iff, isPositiveWord, decide_eq_true_eq, signed_pos_iff, sshiftRight_31, isZeroWord,
    beq_iff_eq, BitVec.or_eq_zero_iff, bangValue, boolWord_eq_zero_iff, isZeroWord, beq_eq_false_iff_ne]
  cases a.getLsbD 31 <;> simp

/-- Settles O51: `bangWord_eq`, and the sign mask beside it. -/
theorem zeroAndSignTestDatapathsAreRight : Obligations.ZeroAndSignTestDatapathsAreRight := by
  refine fun a b => ⟨(bangLines_eval a b).trans (bangWord_eq a), ?_⟩
  have hsar : sarWord a 31#32 = some (a.sshiftRight 31) := sarWord_eq a (by decide)
  simp only [isPositiveLines_eval, hsar, bangWord_eq, Option.bind_eq_bind, Option.bind_some]
  rw [isPositiveValue, ← signMask_or_bang]
  rfl

/-! ## The datapath of `fitsBits` (R71) -/

/-- Moving a word up and down again by 32 − n copies bit n − 1 into the places from n up. -/
theorem getLsbD_shl_sshiftRight (a : Word) {n i : Nat} (h1 : 1 ≤ n) (h32 : n ≤ 32) (hi : i < 32) :
    ((a <<< (32 - n)).sshiftRight (32 - n)).getLsbD i = if i < n then a.getLsbD i else a.getLsbD (n - 1) := by
  rw [getLsbD_sshiftRight_word _ _ hi, BitVec.getLsbD_shiftLeft, BitVec.getLsbD_shiftLeft]
  by_cases hin : i < n
  · simp [hin, show i + (32 - n) ≤ 31 by omega, show i + (32 - n) < 32 by omega]
  · simp [hin, show ¬ i + (32 - n) ≤ 31 by omega, show ¬ 31 < 32 - n by omega,
      show 31 - (32 - n) = n - 1 by omega]

/-- R71: a word comes back from the two shifts unchanged exactly where it fits in n bits. -/
theorem shl_sshiftRight_eq_self_iff (a : Word) {n : Nat} (h1 : 1 ≤ n) (h32 : n ≤ 32) :
    a = (a <<< (32 - n)).sshiftRight (32 - n) ↔ fitsIn a n = true := by
  rw [fitsIn_iff_bits]
  constructor
  · intro h
    have hcopy (i : Nat) (hlo : n - 1 ≤ i) (hhi : i ≤ 31) : a.getLsbD i = a.getLsbD (n - 1) := by
      rw [h, getLsbD_shl_sshiftRight a h1 h32 (by omega), getLsbD_shl_sshiftRight a h1 h32 (by omega)]
      by_cases hin : i < n
      · rw [show i = n - 1 by omega]
      · simp [hin]
    intro i hlo hhi
    rw [hcopy i hlo hhi, hcopy 31 (by omega) le_rfl]
  · intro h
    apply BitVec.eq_of_getLsbD_eq
    intro i hi
    rw [getLsbD_shl_sshiftRight a h1 h32 hi]
    split
    · rfl
    · rw [h i (by omega) (by omega), h (n - 1) le_rfl (by omega)]

/-- Settles O52: the amount is 32 − n, and for n = 0 it would be 32. -/
theorem fitsBitsDatapathIsRight : Obligations.FitsBitsDatapathIsRight := by
  refine ⟨fun a b hd => ?_, fun a => ?_⟩
  · obtain ⟨h1, h32⟩ := (inDomain_fitsBits a b).mp hd
    have h0 : 0 ≤ signed b := by omega
    have hb : b.toNat ≤ 32 := toNat_le_of_signed h0 h32
    have hb1 : 1 ≤ b.toNat := by
      have := toNat_signed h0
      omega
    have hs : (33#32 + ~~~b).toNat = 32 - b.toNat := by bv_omega
    have hzero : isZeroWord (a ^^^ (a <<< (32 - b.toNat)).sshiftRight (32 - b.toNat)) = fitsIn a b.toNat := by
      rw [Bool.eq_iff_iff, isZeroWord, beq_iff_eq, BitVec.xor_eq_zero_iff]
      exact shl_sshiftRight_eq_self_iff a hb1 hb
    have hlt : (33#32 + ~~~b).toNat < 32 := by omega
    simp only [fitsBitsLines_eval, shlWord_eq _ hlt, sarWord_eq _ hlt, bangWord_eq, hs, Option.bind_eq_bind,
      Option.bind_some]
    rw [bangValue, hzero, fitsBitsValue, countOf_eq_toNat h0]
  · have hnone : shlWord a (33#32 + ~~~0#32) = none := shlWord_none a (by decide)
    simp only [fitsBitsLines_eval, hnone, Option.bind_eq_bind, Option.bind_none]

/-! ## The datapath of `divpwr2` (R73) -/

/-- Adding one less than the divisor turns rounding down into rounding toward zero, for a negative dividend. -/
theorem tdiv_of_neg {x d : Int} (hx : x < 0) (hd : 0 < d) : x.tdiv d = (x + (d - 1)) / d := by
  symm
  rw [Int.ediv_eq_iff_of_pos hd]
  obtain ⟨hxd, hlo, hhi⟩ := (Int.tdiv_tmod_unique' hx.le hd.ne').mp ⟨rfl, rfl⟩
  rw [Int.natAbs_of_nonneg hd.le] at hlo
  rw [mul_comm] at hxd
  omega

theorem one_shiftLeft_eq_word (n : Nat) : (1#32 : Word) <<< n = word (2 ^ n) := by
  apply BitVec.eq_of_toNat_eq
  have hcast : (2 : Int) ^ n = ((2 ^ n : Nat) : Int) := by push_cast; rfl
  rw [word_eq_ofInt, hcast, BitVec.ofInt_natCast, BitVec.toNat_shiftLeft, Nat.shiftLeft_eq,
    BitVec.toNat_ofNat (2 ^ n) 32, show (1#32 : Word).toNat = 1 from rfl, one_mul]

/-- R73: the bias of a negative dividend keeps the sum a word's reading. -/
theorem signed_add_bias {a : Word} {n : Nat} (ha : signed a < 0) (hn : n ≤ 30) :
    signed (a + (1#32 <<< n + ~~~0#32)) = signed a + (2 ^ n - 1) := by
  obtain ⟨hlo, -⟩ := signed_bounds a
  have hpow : (2 : Int) ^ n ≤ 2 ^ 30 := pow_le_pow_right₀ (by norm_num) hn
  have hpos : (0 : Int) < 2 ^ n := by positivity
  have hword : a + (1#32 <<< n + ~~~0#32) = word (signed a + (2 ^ n - 1)) := by
    have hones : ~~~0#32 = word (-1) := by decide
    rw [sub_eq_add_neg, word_add, word_add, word_signed, one_shiftLeft_eq_word, hones]
  rw [hword]
  exact signed_word (by omega) (by omega)

/-- Settles O53: a dividend that is not negative gets no bias, a negative one the bias 2^n − 1. -/
theorem divpwr2DatapathIsRight : Obligations.Divpwr2DatapathIsRight := by
  intro a b hd
  obtain ⟨h0, h30⟩ := (inDomain_divpwr2 a b).mp hd
  have hb : b.toNat ≤ 30 := toNat_le_of_signed h0 h30
  have hsign : sarWord a 31#32 = some (a.sshiftRight 31) := sarWord_eq a (by decide)
  have hb32 : b.toNat < 32 := by omega
  simp only [divpwr2Lines_eval, hsign, shlWord_eq _ hb32, sarWord_eq _ hb32, sshiftRight_31,
    Option.bind_eq_bind, Option.bind_some]
  cases ha : a.getLsbD 31
  · rw [divpwr2Value_of_nonneg ((signed_nonneg_iff_getLsbD a).mpr ha) h0]
    simp
  · have hneg := (signed_neg_iff a).mpr ha
    rw [if_pos rfl, BitVec.allOnes_and, Option.some_inj, ← signed_inj, signed_sshiftRight_eq_ediv,
      signed_add_bias hneg hb, signed_divpwr2Value, countOf_eq_toNat h0, tdiv_of_neg hneg (by positivity)]

/-! ## The datapath of `isLessOrEqual` (R79) -/

/-- `(v >>a 31) & 1` is the sign bit. -/
theorem sshiftRight_31_and_one (v : Word) : v.sshiftRight 31 &&& 1#32 = boolWord (v.getLsbD 31) := by
  rw [sshiftRight_31]
  cases v.getLsbD 31 <;> rfl

/-- Words of one sign are compared by the sign of `a + ~b`, which is a − b − 1 and does not wrap. -/
theorem getLsbD_31_add_not {a b : Word} (h : a.getLsbD 31 = b.getLsbD 31) :
    (a + ~~~b).getLsbD 31 = isAtMost a b := by
  obtain ⟨halo, hahi⟩ := signed_bounds a
  obtain ⟨hblo, hbhi⟩ := signed_bounds b
  have hsign : signed a < 0 ↔ signed b < 0 := by rw [signed_neg_iff, signed_neg_iff, h]
  have hword : a + ~~~b = word (signed a - signed b - 1) := by
    rw [word_sub, word_sub, word_signed, word_signed, show word 1 = 1#32 from rfl]
    bv_omega
  rw [Bool.eq_iff_iff, ← signed_neg_iff, hword, signed_word (by omega) (by omega), isAtMost,
    decide_eq_true_eq]
  omega

/-- R79's selection: by the signs where they differ, else by the sign of the difference. -/
theorem signSelect (sa sb sd : Bool) :
    (boolWord sa ^^^ boolWord sb) &&& (boolWord sb ^^^ 1#32) |||
        ((boolWord sa ^^^ boolWord sb) ^^^ 1#32) &&& boolWord sd =
      boolWord (if sa = sb then sd else sa) := by
  revert sa sb sd
  decide

/-- Settles O54: operands of opposite sign are decided by sign, the others by a difference that fits. -/
theorem isLessOrEqualDatapathIsRight : Obligations.IsLessOrEqualDatapathIsRight := by
  intro a b
  have hsar (v : Word) : sarWord v 31#32 = some (v.sshiftRight 31) := sarWord_eq v (by decide)
  simp only [isLessOrEqualLines_eval, hsar, Option.bind_eq_bind, Option.bind_some, sshiftRight_31_and_one,
    signSelect, isLessOrEqualValue]
  split
  · rw [getLsbD_31_add_not ‹_›]
  · rw [isAtMost_of_sign_ne ‹_›]

/-! ## The datapath of `bitCount` (R65) -/

/-- Lane j of a number cut into lanes of w bits. -/
def lane (w v j : Nat) : Nat := v / 2 ^ (w * j) % 2 ^ w

theorem lane_and (w u v j : Nat) : lane w (u &&& v) j = lane w u j &&& lane w v j := by
  rw [lane, Nat.and_div_two_pow, Nat.and_mod_two_pow]
  rfl

/-- The low half of a lane is a lane of half the width. -/
theorem lane_two_mul_mod (w v j : Nat) : lane (2 * w) v j % 2 ^ w = lane w v (2 * j) := by
  rw [lane, Nat.mod_mod_of_dvd _ (Nat.pow_dvd_pow 2 (by omega)), lane, show 2 * w * j = w * (2 * j) by ring]

/-- Shifting by half a lane brings the high halves down. -/
theorem lane_two_mul_div_mod (w v j : Nat) :
    lane (2 * w) (v / 2 ^ w) j % 2 ^ w = lane w v (2 * j + 1) := by
  have hplace : w + w * (2 * j) = w * (2 * j + 1) := by ring
  rw [lane_two_mul_mod, lane, lane, Nat.div_div_eq_div_mul, ← pow_add, hplace]

/-- Where no lane below j overflows, a sum may be shifted lane by lane. -/
theorem add_div_of_lanes {w u v j : Nat} (h : ∀ i < j, lane w u i + lane w v i < 2 ^ w) :
    (u + v) / 2 ^ (w * j) = u / 2 ^ (w * j) + v / 2 ^ (w * j) := by
  induction j with
  | zero => simp
  | succ j ih =>
    have hdiv (x : Nat) : x / 2 ^ (w * (j + 1)) = x / 2 ^ (w * j) / 2 ^ w := by
      rw [Nat.div_div_eq_div_mul, ← pow_add, Nat.mul_succ]
    rw [hdiv, hdiv, hdiv, ih fun i hi => h i (by omega)]
    exact Nat.add_div_eq_of_add_mod_lt (h j (by omega))

theorem lane_add {w u v j : Nat} (h : ∀ i ≤ j, lane w u i + lane w v i < 2 ^ w) :
    lane w (u + v) j = lane w u j + lane w v j := by
  rw [lane, add_div_of_lanes fun i hi => h i hi.le, Nat.add_mod]
  exact Nat.mod_eq_of_lt (h j le_rfl)

/-- How many 1 bits x has in lane j of width w. -/
def onesInLane (x : Word) (w j : Nat) : Nat := ∑ i ∈ Finset.range w, (x.getLsbD (w * j + i)).toNat

theorem onesInLane_le (x : Word) (w j : Nat) : onesInLane x w j ≤ w := by
  refine (Finset.sum_le_card_nsmul _ _ 1 fun i _ => Bool.toNat_le _).trans ?_
  simp

theorem onesInLane_two_mul (x : Word) (w j : Nat) :
    onesInLane x (2 * w) j = onesInLane x w (2 * j) + onesInLane x w (2 * j + 1) := by
  have hlow (i : Nat) : 2 * w * j + i = w * (2 * j) + i := by ring
  have hhigh (i : Nat) : w * (2 * j) + (w + i) = w * (2 * j + 1) + i := by ring
  rw [onesInLane, onesInLane, onesInLane]
  simp only [hlow]
  rw [two_mul w, Finset.sum_range_add]
  simp only [hhigh]

/-- The first n lanes of v, of width w, hold the counts of the 1 bits of x in those lanes. -/
def LanesCount (x : Word) (w n : Nat) (v : Word) : Prop := ∀ j < n, lane w v.toNat j = onesInLane x w j

/-- A word's own bits are the counts of its one-bit lanes. -/
theorem lanesCount_one (x : Word) : LanesCount x 1 32 x := by
  intro j _
  rw [lane, onesInLane, Finset.sum_range_one, one_mul, pow_one, ← Nat.toNat_testBit]
  rfl

/-- One pass of R65 with the mask of the even lanes. -/
def countPass (v m : Word) (w : Nat) : Word := (v &&& m) + (v.sshiftRight w &&& m)

/-- A pass adds the lanes in pairs, and no sum of two counts overflows the wider lane. -/
theorem lanesCount_pass {x v m : Word} {w n : Nat} (hv : LanesCount x w (2 * n) v) (hm31 : m.toNat < 2 ^ 31)
    (hmw : m.toNat < 2 ^ (32 - w)) (hm : ∀ j < n, lane (2 * w) m.toNat j = 2 ^ w - 1) :
    LanesCount x (2 * w) n (countPass v m w) := by
  have hlow (u j : Nat) (hj : j < n) :
      lane (2 * w) (u &&& m.toNat) j = lane (2 * w) u j % 2 ^ w := by
    rw [lane_and, hm j hj, Nat.and_two_pow_sub_one_eq_mod]
  have heven (j : Nat) (hj : j < n) : lane (2 * w) (v.toNat &&& m.toNat) j = onesInLane x w (2 * j) := by
    rw [hlow _ j hj, lane_two_mul_mod, hv _ (by omega)]
  have hodd (j : Nat) (hj : j < n) :
      lane (2 * w) (v.toNat / 2 ^ w &&& m.toNat) j = onesInLane x w (2 * j + 1) := by
    rw [hlow _ j hj, lane_two_mul_div_mod, hv _ (by omega)]
  have hnat : (countPass v m w).toNat = (v.toNat &&& m.toNat) + (v.toNat / 2 ^ w &&& m.toNat) := by
    have h1 : v.toNat &&& m.toNat ≤ m.toNat := Nat.and_le_right
    have h2 : v.toNat / 2 ^ w &&& m.toNat ≤ m.toNat := Nat.and_le_right
    rw [countPass, sshiftRight_and_mask v hmw, BitVec.toNat_add, BitVec.toNat_and, BitVec.toNat_and,
      BitVec.toNat_ushiftRight, Nat.shiftRight_eq_div_pow, Nat.mod_eq_of_lt (by omega)]
  intro j hj
  rw [hnat, lane_add, heven j hj, hodd j hj, onesInLane_two_mul]
  intro i hi
  have := onesInLane_le x w (2 * i)
  have := onesInLane_le x w (2 * i + 1)
  have : 2 * w < 2 ^ (2 * w) := Nat.lt_two_pow_self
  rw [heven i (by omega), hodd i (by omega)]
  omega

/-- After the last pass one lane is left, the whole word. -/
theorem eq_bitCountValue_of_lanesCount {x v : Word} (h : LanesCount x 32 1 v) : v = bitCountValue x := by
  apply BitVec.eq_of_toNat_eq
  have hv : lane 32 v.toNat 0 = v.toNat := by
    rw [lane, Nat.mul_zero, pow_zero, Nat.div_one, Nat.mod_eq_of_lt v.isLt]
  have hx : onesInLane x 32 0 = bitSum x := by
    rw [onesInLane, bitSum_eq_sum]
    simp
  rw [← unsigned_eq_toNat (bitCountValue x), unsigned_bitCountValue, ← hx, ← h 0 (by norm_num), hv]

/-- Settles O50: five passes, from the 32 lanes of one bit to the one lane of 32. -/
theorem bitCountDatapathIsRight : Obligations.BitCountDatapathIsRight := by
  intro a b
  have h2 := lanesCount_pass (m := 0x55555555#32) (n := 16) (lanesCount_one a) (by decide) (by decide)
    (by decide)
  have h4 := lanesCount_pass (m := 0x33333333#32) (n := 8) h2 (by decide) (by decide) (by decide)
  have h8 := lanesCount_pass (m := 0x0F0F0F0F#32) (n := 4) h4 (by decide) (by decide) (by decide)
  have h16 := lanesCount_pass (m := 0x00FF00FF#32) (n := 2) h8 (by decide) (by decide) (by decide)
  have h32 := lanesCount_pass (m := 0x0000FFFF#32) (n := 1) h16 (by decide) (by decide) (by decide)
  have hsar (v k : Word) (hk : k.toNat < 32) : sarWord v k = some (v.sshiftRight k.toNat) := sarWord_eq v hk
  rw [bitCountLines_eval, ← eq_bitCountValue_of_lanesCount h32]
  simp only [hsar _ 1#32 (by decide), hsar _ 2#32 (by decide), hsar _ 4#32 (by decide),
    hsar _ 8#32 (by decide), hsar _ 16#32 (by decide), Option.bind_eq_bind, Option.bind_some]
  rfl

/-! ## The datapath of `ilog2` (R81) -/

/-- `!!v` in a datapath is the test for a word other than 0. -/
theorem bangWord_bangWord (v : Word) : (bangWord v).bind bangWord = some (boolWord (!isZeroWord v)) := by
  rw [bangWord_eq, Option.bind_some, bangWord_eq, bangValue, bangValue]
  cases isZeroWord v <;> rfl

theorem log2_eq_add_log2_div {m k : Nat} (h : 2 ^ k ≤ m) : m.log2 = k + (m / 2 ^ k).log2 := by
  have hk : k ≤ m.log2 := by
    rw [Nat.le_log2 (by have := Nat.two_pow_pos k; omega)]
    exact h
  rw [Nat.log2_eq_log_two, Nat.log2_eq_log_two, Nat.log_div_base_pow]
  rw [Nat.log2_eq_log_two] at hk
  omega

/-- One round of the search: `t = !!(v >>a k)`, `s = t << j` and `v >>a s`, with k = 2^j half of the places
where v can have its highest 1 bit. The other half is left to search. -/
theorem ilog2_round {v k j : Word} (hj : j.toNat ≤ 4) (hk : k.toNat = 2 ^ j.toNat) (h31 : v.toNat < 2 ^ 31)
    (h0 : 0 < v.toNat) (hv : v.toNat < 2 ^ (2 * k.toNat)) :
    ∃ t s v', ((sarWord v k).bind bangWord).bind bangWord = some t ∧ shlWord t j = some s ∧
      sarWord v s = some v' ∧ 0 < v'.toNat ∧ v'.toNat < 2 ^ k.toNat ∧ v.toNat.log2 = s.toNat + v'.toNat.log2 := by
  have hk32 : k.toNat < 32 := by
    have : 2 ^ j.toNat ≤ 2 ^ 4 := Nat.pow_le_pow_right (by norm_num) hj
    omega
  have hsign : v.getLsbD 31 = false := Nat.testBit_lt_two_pow h31
  have hshift (n : Nat) : (v.sshiftRight n).toNat = v.toNat / 2 ^ n := by
    rw [sshiftRight_of_getLsbD_31_false hsign, BitVec.toNat_ushiftRight, Nat.shiftRight_eq_div_pow]
  have ht : ((sarWord v k).bind bangWord).bind bangWord =
      some (boolWord (!isZeroWord (v.sshiftRight k.toNat))) := by
    rw [sarWord_eq v hk32, Option.bind_some, bangWord_bangWord]
  rcases Nat.lt_or_ge v.toNat (2 ^ k.toNat) with hlow | hhigh
  · have hzero : v.sshiftRight k.toNat = 0#32 :=
      BitVec.eq_of_toNat_eq ((hshift k.toNat).trans (Nat.div_eq_of_lt hlow))
    refine ⟨_, 0#32, v, ht, ?_, ?_, h0, hlow, (Nat.zero_add _).symm⟩
    · rw [hzero, shlWord_eq _ (by omega)]
      exact congrArg some (BitVec.zero_shiftLeft _)
    · rw [sarWord_eq v (by decide)]
      exact congrArg some BitVec.sshiftRight_zero
  · have hpos : 0 < v.toNat / 2 ^ k.toNat := Nat.div_pos hhigh (Nat.two_pow_pos _)
    have hne : isZeroWord (v.sshiftRight k.toNat) = false := by
      rw [isZeroWord, beq_eq_false_iff_ne, ne_eq, ← BitVec.toNat_inj, hshift]
      exact hpos.ne'
    have hs : (1#32 <<< j.toNat : Word) = k := by
      apply BitVec.eq_of_toNat_eq
      rw [one_shiftLeft_eq_word, hk]
      exact toNat_word_natCast (n := 2 ^ j.toNat) (by omega)
    refine ⟨_, k, v.sshiftRight k.toNat, ht, ?_, sarWord_eq v hk32, ?_, ?_, ?_⟩
    · rw [hne, shlWord_eq _ (by omega)]
      exact congrArg some hs
    · rw [hshift]
      exact hpos
    · rw [hshift, Nat.div_lt_iff_lt_mul (Nat.two_pow_pos _), ← pow_add, ← two_mul]
      exact hv
    · rw [hshift]
      exact log2_eq_add_log2_div hhigh

/-- Settles O55: five rounds, each halving the places left, and the amounts shifted by sum to the index. -/
theorem ilog2DatapathIsRight : Obligations.Ilog2DatapathIsRight := by
  intro a b hd
  have hpos : 0 < signed a := (inDomain_ilog2 a b).mp hd
  have h31 : a.toNat < 2 ^ 31 := (signed_nonneg_iff a).mp hpos.le
  have h0 : 0 < a.toNat := by
    have := toNat_signed hpos.le
    omega
  obtain ⟨t16, s16, v1, ht16, hs16, hv1, hpos1, hlt1, hlog1⟩ :=
    ilog2_round (k := 16#32) (j := 4#32) (by decide) (by decide) h31 h0 a.isLt
  obtain ⟨t8, s8, v2, ht8, hs8, hv2, hpos2, hlt2, hlog2⟩ :=
    ilog2_round (k := 8#32) (j := 3#32) (by decide) (by decide) (hlt1.trans (by decide)) hpos1 hlt1
  obtain ⟨t4, s4, v3, ht4, hs4, hv3, hpos3, hlt3, hlog3⟩ :=
    ilog2_round (k := 4#32) (j := 2#32) (by decide) (by decide) (hlt2.trans (by decide)) hpos2 hlt2
  obtain ⟨t2, s2, v4, ht2, hs2, hv4, hpos4, hlt4, hlog4⟩ :=
    ilog2_round (k := 2#32) (j := 1#32) (by decide) (by decide) (hlt3.trans (by decide)) hpos3 hlt3
  obtain ⟨t1, s1, v5, ht1, hs1, -, hpos5, hlt5, hlog5⟩ :=
    ilog2_round (k := 1#32) (j := 0#32) (by decide) (by decide) (hlt4.trans (by decide)) hpos4 hlt4
  have hlast : t1 = s1 := by
    rw [shlWord_eq t1 (by decide)] at hs1
    simpa using hs1
  have hone : v5.toNat.log2 = 0 := by
    have hlt : v5.toNat < 2 := hlt5
    rw [show v5.toNat = 1 by omega]
    rfl
  have hsum : a.toNat.log2 = s16.toNat + s8.toNat + s4.toNat + s2.toNat + s1.toNat := by omega
  simp only [ilog2Lines_eval, ht16, hs16, hv1, ht8, hs8, hv2, ht4, hs4, hv3, ht2, hs2, hv4, ht1, hlast,
    Option.bind_eq_bind, Option.bind_some]
  rw [ilog2Value, highestBit_eq_log2 (m := unsigned a) a.isLt h0, word_eq_ofInt, BitVec.ofInt_natCast,
    unsigned_eq_toNat, hsum]
  simp only [BitVec.ofNat_add, BitVec.ofNat_toNat, BitVec.setWidth_eq]

/-! ## Every datapath of the family (R82) -/

/-- Settles O57: the twelve datapaths in turn. -/
theorem integerDatapathsMeetTheirResults : Obligations.IntegerDatapathsMeetTheirResults := by
  intro cfg i a b hfam hd
  cases i with
  | bitAnd => exact (datapathResult_of_lines cfg a b rfl).trans (bitAndLines_value a b)
  | getByte => exact (datapathResult_of_lines cfg a b rfl).trans (getByteDatapathIsRight a b hd)
  | logicalShift => exact (datapathResult_of_lines cfg a b rfl).trans (logicalShiftDatapathIsRight a b hd)
  | bitCount => exact (datapathResult_of_lines cfg a b rfl).trans (bitCountDatapathIsRight a b)
  | bang => exact (datapathResult_of_lines cfg a b rfl).trans (zeroAndSignTestDatapathsAreRight a b).1
  | tmin => exact (datapathResult_of_lines cfg a b rfl).trans (tminLines_value a b)
  | fitsBits => exact (datapathResult_of_lines cfg a b rfl).trans (fitsBitsDatapathIsRight.1 a b hd)
  | divpwr2 => exact (datapathResult_of_lines cfg a b rfl).trans (divpwr2DatapathIsRight a b hd)
  | negate => exact (datapathResult_of_lines cfg a b rfl).trans (negateLines_value a b)
  | isPositive => exact (datapathResult_of_lines cfg a b rfl).trans (zeroAndSignTestDatapathsAreRight a b).2
  | isLessOrEqual => exact (datapathResult_of_lines cfg a b rfl).trans (isLessOrEqualDatapathIsRight a b)
  | ilog2 => exact (datapathResult_of_lines cfg a b rfl).trans (ilog2DatapathIsRight a b hd)
  | floatNeg | floatI2f | floatTwice | reserved => cases hfam

end Sys2Proof.Machine
end

section
/-! PROOFS. The statements of 41_float_family.md: the fields, classes and values of a pattern (R86 to R88), the
functional results of the three operations (R92, R95, R97) with rounding (R94) and what they mean (R90, R99),
and the reference datapaths, which give the same words (R93, R96, R98, R100). -/

namespace Sys2Proof.Machine

/-! ## The unsigned reading of a word and its operators -/

theorem unsigned_lt (u : Word) : unsigned u < 2 ^ 32 := u.isLt

theorem unsigned_inj {v w : Word} : unsigned v = unsigned w ↔ v = w := BitVec.toNat_inj

theorem unsigned_add (v w : Word) : unsigned (v + w) = (unsigned v + unsigned w) % 2 ^ 32 :=
  BitVec.toNat_add v w

theorem unsigned_shiftLeft (v : Word) (n : Nat) : unsigned (v <<< n) = unsigned v * 2 ^ n % 2 ^ 32 := by
  rw [unsigned, BitVec.toNat_shiftLeft, Nat.shiftLeft_eq, unsigned]

theorem unsigned_boolWord (c : Bool) : unsigned (boolWord c) = c.toNat := by
  cases c <;> rfl

theorem unsigned_and_lowMask (u : Word) {k : Nat} (hk : k ≤ 32) :
    unsigned (u &&& BitVec.ofNat 32 (2 ^ k - 1)) = unsigned u % 2 ^ k := by
  have hpow : 2 ^ k ≤ 2 ^ 32 := Nat.pow_le_pow_right (by norm_num) hk
  have hpos := Nat.two_pow_pos k
  rw [unsigned, BitVec.toNat_and, BitVec.toNat_ofNat, Nat.mod_eq_of_lt (by omega),
    Nat.and_two_pow_sub_one_eq_mod, unsigned]

theorem unsigned_topBits (v : Word) : unsigned ((v.extractLsb' 9 23).setWidth 32) = unsigned v / 2 ^ 9 := by
  have hv := unsigned_lt v
  rw [unsigned, BitVec.toNat_setWidth, BitVec.extractLsb'_toNat, Nat.shiftRight_eq_div_pow, ← unsigned_eq_toNat]
  omega

theorem signed_eq_zero_iff (v : Word) : signed v = 0 ↔ v = 0#32 := signed_inj (w := 0#32)

/-! ## The fields of a pattern as digits of its number (R86) -/

theorem signOf_eq_decide (u : Word) : signOf u = decide (2 ^ 31 ≤ unsigned u) := by
  rw [signOf, ← msb_eq_getLsbD_31]
  exact BitVec.msb_eq_decide u

theorem signOf_eq_decide_neg (u : Word) : signOf u = decide (signed u < 0) := by
  rw [Bool.eq_iff_iff, decide_eq_true_iff, signed_neg_iff, signOf]

theorem expOf_eq (u : Word) : expOf u = unsigned u / 2 ^ 23 % 2 ^ 8 := by
  rw [expOf, BitVec.extractLsb'_toNat, Nat.shiftRight_eq_div_pow, unsigned]

theorem manOf_eq (u : Word) : manOf u = unsigned u % 2 ^ 23 := by
  rw [manOf, BitVec.extractLsb'_toNat, Nat.shiftRight_zero, unsigned]

theorem expOf_le (u : Word) : expOf u ≤ 0xFF := by
  rw [expOf_eq]
  omega

theorem manOf_lt (u : Word) : manOf u < 2 ^ 23 := by
  rw [manOf_eq]
  exact Nat.mod_lt _ (by norm_num)

theorem unsigned_eq_fields (u : Word) :
    unsigned u = (signOf u).toNat * 2 ^ 31 + expOf u * 2 ^ 23 + manOf u := by
  have := unsigned_lt u
  rw [signOf_eq_decide, expOf_eq, manOf_eq]
  by_cases h : 2 ^ 31 ≤ unsigned u
  · rw [decide_eq_true h, Bool.toNat_true]
    omega
  · rw [decide_eq_false h, Bool.toNat_false]
    omega

/-- A number written with three digits of the right size has those digits for fields. -/
theorem fields_of_unsigned {u : Word} {s : Bool} {e m : Nat}
    (h : unsigned u = s.toNat * 2 ^ 31 + e * 2 ^ 23 + m) (he : e ≤ 0xFF) (hm : m < 2 ^ 23) :
    signOf u = s ∧ expOf u = e ∧ manOf u = m := by
  rw [signOf_eq_decide, expOf_eq, manOf_eq, h]
  cases s
  · refine ⟨decide_eq_false ?_, ?_, ?_⟩ <;> rw [Bool.toNat_false] <;> omega
  · refine ⟨decide_eq_true ?_, ?_, ?_⟩ <;> rw [Bool.toNat_true] <;> omega

theorem eq_of_fields {u v : Word} (hs : signOf u = signOf v) (he : expOf u = expOf v)
    (hm : manOf u = manOf v) : u = v := by
  rw [← unsigned_inj, unsigned_eq_fields u, unsigned_eq_fields v, hs, he, hm]

/-- "Bit pattern with sign cleared" (R92). -/
theorem unsigned_and_low31 (u : Word) :
    unsigned (u &&& 0x7FFFFFFF#32) = expOf u * 2 ^ 23 + manOf u := by
  have hmask : unsigned (u &&& 0x7FFFFFFF#32) = unsigned u % 2 ^ 31 :=
    unsigned_and_lowMask u (k := 31) (by norm_num)
  rw [hmask, expOf_eq, manOf_eq]
  omega

theorem unsigned_and_low23 (u : Word) : unsigned (u &&& 0x007FFFFF#32) = manOf u :=
  (unsigned_and_lowMask u (k := 23) (by norm_num)).trans (manOf_eq u).symm

theorem unsigned_and_signBit (u : Word) :
    unsigned (u &&& 0x80000000#32) = (signOf u).toNat * 2 ^ 31 := by
  have h : u &&& 0x80000000#32 = BitVec.ofNat 32 ((signOf u).toNat * 2 ^ 31) := by
    rw [show (0x80000000#32 : Word) = BitVec.twoPow 32 31 from rfl, BitVec.and_twoPow, signOf]
    cases u.getLsbD 31 <;> rfl
  rw [h]
  cases signOf u <;> rfl

/-- The sign bit of one word above the 31 low bits of another. -/
theorem unsigned_signBit_or (u : Word) {v : Word} (hv : unsigned v < 2 ^ 31) :
    unsigned ((u &&& 0x80000000#32) ||| v) = (signOf u).toNat * 2 ^ 31 + unsigned v := by
  have hor : unsigned ((u &&& 0x80000000#32) ||| v) = unsigned (u &&& 0x80000000#32) ||| unsigned v :=
    BitVec.toNat_or _ _
  rw [hor, unsigned_and_signBit, Nat.mul_comm, Nat.two_pow_add_eq_or_of_lt hv]

/-! ## The classes (R87) -/

theorem classOf_zero_iff (u : Word) : classOf u = .zero ↔ expOf u = 0 ∧ manOf u = 0 := by
  unfold classOf
  split_ifs <;> simp [*]

theorem classOf_denormalized_iff (u : Word) : classOf u = .denormalized ↔ expOf u = 0 ∧ manOf u ≠ 0 := by
  unfold classOf
  split_ifs <;> simp [*]

theorem classOf_normalized_iff (u : Word) : classOf u = .normalized ↔ 1 ≤ expOf u ∧ expOf u ≤ 0xFE := by
  have := expOf_le u
  unfold classOf
  split_ifs <;> simp [*]
  omega

theorem classOf_infinity_iff (u : Word) : classOf u = .infinity ↔ expOf u = 0xFF ∧ manOf u = 0 := by
  unfold classOf
  split_ifs <;> simp [*]

theorem classOf_nan_iff (u : Word) : classOf u = .nan ↔ expOf u = 0xFF ∧ manOf u ≠ 0 := by
  unfold classOf
  split_ifs <;> simp [*]

/-- Settles O38: the fields are the digits of the number, and each class has its own condition. -/
theorem patternFieldsAndClasses : Obligations.PatternFieldsAndClasses := by
  intro u
  exact ⟨unsigned_eq_fields u, expOf_le u, Nat.le_sub_one_of_lt (manOf_lt u), classOf_zero_iff u,
    classOf_denormalized_iff u, classOf_normalized_iff u, classOf_infinity_iff u, classOf_nan_iff u⟩

/-- The NaN test of the source: the low 31 bits exceed those of infinity. -/
theorem classOf_nan_iff_low31 (u : Word) :
    classOf u = .nan ↔ 0x7F800000 < unsigned (u &&& 0x7FFFFFFF#32) := by
  have := expOf_le u
  have := manOf_lt u
  rw [classOf_nan_iff, unsigned_and_low31]
  omega

/-- Settles O39: the low 31 bits are exponent field and mantissa as one number, in which the mantissa is
the lower digit. -/
theorem lowBitsDecideTheClass : Obligations.LowBitsDecideTheClass := by
  intro u
  have he := expOf_le u
  have hm := manOf_lt u
  refine ⟨?_, ?_, ?_, ?_, classOf_nan_iff_low31 u⟩ <;> rw [unsigned_and_low31]
  · rw [classOf_zero_iff]
    omega
  · rw [classOf_denormalized_iff]
    omega
  · rw [classOf_normalized_iff]
    omega
  · rw [classOf_infinity_iff]
    omega

/-! ## What a pattern stands for (R88) -/

/-- The magnitude of a pattern that is neither infinity nor NaN, counted in units of 2^−149, the value of
the least denormalized pattern. -/
def magnitudeUnits (u : Word) : Nat :=
  if expOf u = 0 then manOf u else (2 ^ 23 + manOf u) * 2 ^ (expOf u - 1)

theorem magnitudeUnits_of_exp_zero {u : Word} (h : expOf u = 0) : magnitudeUnits u = manOf u := if_pos h

theorem magnitudeUnits_of_exp_succ {u : Word} {e : Nat} (h : expOf u = e + 1) :
    magnitudeUnits u = (2 ^ 23 + manOf u) * 2 ^ e := by
  rw [magnitudeUnits, if_neg (by omega), h, Nat.add_sub_cancel]

/-- The formulas of R88 as one: sign times magnitude. -/
theorem patternValue_of_finite {u : Word} (h : expOf u ≤ 0xFE) :
    patternValue u = .finite (signFactor u * (magnitudeUnits u / 2 ^ 149)) := by
  rcases he : expOf u with _ | e
  · have hval : patternValue u = .finite (signFactor u * ((manOf u : ℚ) / 2 ^ 23) * (2 : ℚ) ^ (-126 : Int)) := by
      rw [patternValue]
      by_cases hm : manOf u = 0
      · rw [(classOf_zero_iff u).mpr ⟨he, hm⟩]
      · rw [(classOf_denormalized_iff u).mpr ⟨he, hm⟩]
    have hpow : (2 : ℚ) ^ (-126 : Int) = 1 / 2 ^ 126 := by norm_num
    rw [hval, magnitudeUnits_of_exp_zero he, hpow, mul_assoc]
    congr 2
    ring
  · have hclass : classOf u = .normalized := (classOf_normalized_iff u).mpr ⟨by omega, h⟩
    have hpow : (2 : ℚ) ^ ((e + 1 : Nat) - 127 : Int) = 2 ^ e / 2 ^ 126 := by
      rw [show ((e + 1 : Nat) - 127 : Int) = (e : Int) - (126 : Nat) by omega, zpow_sub₀ two_ne_zero,
        zpow_natCast, zpow_natCast]
    have hval : patternValue u =
        .finite (signFactor u * (1 + (manOf u : ℚ) / 2 ^ 23) * (2 : ℚ) ^ ((expOf u : Int) - 127)) := by
      rw [patternValue, hclass]
    rw [hval, magnitudeUnits_of_exp_succ he, he, hpow, mul_assoc]
    congr 2
    push_cast
    ring

theorem patternValue_eq_finite_iff (u : Word) (q : ℚ) : patternValue u = .finite q ↔
    expOf u ≤ 0xFE ∧ q = signFactor u * (magnitudeUnits u / 2 ^ 149) := by
  by_cases h : expOf u ≤ 0xFE
  · rw [patternValue_of_finite h, PatternValue.finite.injEq, eq_comm]
    exact ⟨fun hq => ⟨h, hq⟩, And.right⟩
  · have he : expOf u = 0xFF := by
      have := expOf_le u
      omega
    have hval : patternValue u ≠ .finite q := by
      rw [patternValue]
      by_cases hm : manOf u = 0
      · rw [(classOf_infinity_iff u).mpr ⟨he, hm⟩]
        nofun
      · rw [(classOf_nan_iff u).mpr ⟨he, hm⟩]
        nofun
    exact ⟨fun hq => absurd hq hval, fun hq => absurd hq.1 h⟩

theorem patternValue_eq_infinity_iff (u : Word) (negative : Bool) :
    patternValue u = .infinity negative ↔ classOf u = .infinity ∧ signOf u = negative := by
  rw [patternValue]
  cases classOf u <;> simp

theorem abs_signFactor (u : Word) : |signFactor u| = 1 := by
  unfold signFactor
  split <;> norm_num

/-- From 2^(n+23) units on a magnitude is a multiple of 2^n of them, because it has 24 significant bits. -/
theorem magnitudeUnits_lt_or_dvd (u : Word) (n : Nat) :
    magnitudeUnits u < 2 ^ (n + 23) ∨ 2 ^ n ∣ magnitudeUnits u := by
  have hm := manOf_lt u
  rcases he : expOf u with _ | e
  · left
    rw [magnitudeUnits_of_exp_zero he]
    exact hm.trans_le (Nat.pow_le_pow_right (by norm_num) (by omega))
  · rw [magnitudeUnits_of_exp_succ he]
    rcases Nat.lt_or_ge e n with hlt | hge
    · left
      calc (2 ^ 23 + manOf u) * 2 ^ e < 2 ^ 24 * 2 ^ e :=
            Nat.mul_lt_mul_of_pos_right (by omega) (Nat.two_pow_pos e)
        _ = 2 ^ (24 + e) := (pow_add 2 24 e).symm
        _ ≤ 2 ^ (n + 23) := Nat.pow_le_pow_right (by norm_num) (by omega)
    · right
      exact (pow_dvd_pow 2 hge).mul_left _

/-- The same of the magnitude as a number: small, or a multiple of 2^k. -/
theorem magnitude_lt_or_multiple (u : Word) (k : Nat) : (magnitudeUnits u / 2 ^ 149 : ℚ) < 2 ^ (k + 23) ∨
    ∃ n : Int, (magnitudeUnits u / 2 ^ 149 : ℚ) = n * 2 ^ k := by
  rcases magnitudeUnits_lt_or_dvd u (k + 149) with hlt | ⟨c, hc⟩
  · left
    rw [div_lt_iff₀ (by norm_num), ← pow_add]
    exact_mod_cast hlt.trans_eq (congrArg (2 ^ ·) (by omega))
  · refine .inr ⟨c, ?_⟩
    rw [hc, Nat.cast_mul, Nat.cast_pow, Nat.cast_ofNat, Int.cast_natCast, pow_add]
    field_simp

/-! ## `float_neg` (R92) -/

theorem floatNegValue_of_nan {u : Word} (h : classOf u = .nan) : floatNegValue u = u := if_pos h

theorem floatNegValue_of_not_nan {u : Word} (h : classOf u ≠ .nan) :
    floatNegValue u = u ^^^ 0x80000000#32 := if_neg h

/-- Inverting bit 31 leaves the other bits alone. -/
theorem getLsbD_xor_signBit (u : Word) (i : Nat) :
    (u ^^^ 0x80000000#32).getLsbD i = (u.getLsbD i ^^ decide (i = 31)) := by
  rw [BitVec.getLsbD_xor, show (0x80000000#32 : Word) = BitVec.twoPow 32 31 from rfl,
    BitVec.getLsbD_twoPow]
  simp [eq_comm]

/-- Inverting bit 31 inverts the sign and keeps the two other fields. -/
theorem fields_xor_signBit (u : Word) : signOf (u ^^^ 0x80000000#32) = !signOf u ∧
    expOf (u ^^^ 0x80000000#32) = expOf u ∧ manOf (u ^^^ 0x80000000#32) = manOf u := by
  refine ⟨?_, ?_, ?_⟩
  · rw [signOf, getLsbD_xor_signBit, decide_eq_true rfl, Bool.xor_true, signOf]
  · rw [expOf, BitVec.extractLsb'_xor, show (0x80000000#32 : Word).extractLsb' 23 8 = 0#8 from rfl,
      BitVec.xor_zero, expOf]
  · rw [manOf, BitVec.extractLsb'_xor, show (0x80000000#32 : Word).extractLsb' 0 23 = 0#23 from rfl,
      BitVec.xor_zero, manOf]

theorem classOf_floatNegValue (u : Word) : classOf (floatNegValue u) = classOf u := by
  by_cases h : classOf u = .nan
  · rw [floatNegValue_of_nan h]
  · obtain ⟨-, he, hm⟩ := fields_xor_signBit u
    rw [floatNegValue_of_not_nan h, classOf, he, hm, classOf]

/-- Settles O40: a NaN pattern goes through, any other has bit 31 inverted, and the low 31 bits tell
which. -/
theorem floatNegFlipsTheSign : Obligations.FloatNegFlipsTheSign := by
  refine ⟨decode_floatNeg, fun s => ⟨floatNegValue s.a, exec_of_value rfl rfl, ?_, ?_, ?_, ?_⟩⟩
  · rw [← classOf_nan_iff]
    exact floatNegValue_of_nan
  · rw [← classOf_nan_iff]
    intro h
    rw [floatNegValue_of_not_nan h]
    refine ⟨?_, fun i hi => ?_⟩
    · rw [getLsbD_xor_signBit, decide_eq_true rfl, Bool.xor_true]
    · rw [getLsbD_xor_signBit, decide_eq_false hi.ne, Bool.xor_false]
  · rw [gt_iff_lt, ← classOf_nan_iff_low31]
    exact floatNegValue_of_nan
  · rw [gt_iff_lt, ← classOf_nan_iff_low31]
    exact floatNegValue_of_not_nan

theorem floatNegDatapath_eq (u : Word) : floatNegDatapath u = some (floatNegValue u) := by
  by_cases h : classOf u = .nan
  · rw [floatNegValue_of_nan h]
    exact if_pos ((classOf_nan_iff_low31 u).mp h)
  · rw [floatNegValue_of_not_nan h]
    exact if_neg (fun hlt => h ((classOf_nan_iff_low31 u).mpr hlt))

theorem floatNegValue_floatNegValue (u : Word) : floatNegValue (floatNegValue u) = u := by
  by_cases h : classOf u = .nan
  · rw [floatNegValue_of_nan h, floatNegValue_of_nan h]
  · rw [floatNegValue_of_not_nan (by rwa [classOf_floatNegValue]), floatNegValue_of_not_nan h,
      BitVec.xor_assoc, BitVec.xor_self, BitVec.xor_zero]

/-! ## Rounding to nearest, ties to even (R94) -/

theorem roundNearestEven_zero (q : Nat) : roundNearestEven q 0 = q := if_pos rfl

section
variable {q k : Nat} (hk : 1 ≤ k)
include hk

theorem roundNearestEven_of_gt (h : 2 ^ (k - 1) < q % 2 ^ k) : roundNearestEven q k = q / 2 ^ k + 1 := by
  rw [roundNearestEven, if_neg (by omega)]
  exact if_pos (.inl h)

theorem roundNearestEven_of_lt (h : q % 2 ^ k < 2 ^ (k - 1)) : roundNearestEven q k = q / 2 ^ k := by
  rw [roundNearestEven, if_neg (by omega)]
  exact if_neg (by omega)

/-- On a tie the kept number moves up exactly where it is odd. -/
theorem roundNearestEven_of_tie (h : q % 2 ^ k = 2 ^ (k - 1)) :
    roundNearestEven q k = q / 2 ^ k + q / 2 ^ k % 2 := by
  rw [roundNearestEven, if_neg (by omega)]
  dsimp only
  split_ifs <;> omega

end

/-- The rounded multiple of 2^k is at most half a unit away, and even where it is exactly half. -/
theorem roundNearestEven_dist (q k : Nat) :
    2 * |((roundNearestEven q k * 2 ^ k : Nat) : Int) - q| ≤ 2 ^ k ∧
      (2 * |((roundNearestEven q k * 2 ^ k : Nat) : Int) - q| = 2 ^ k → roundNearestEven q k % 2 = 0) := by
  rcases Nat.eq_zero_or_pos k with rfl | hk
  · simp [roundNearestEven_zero]
  · have hq := Nat.div_add_mod q (2 ^ k)
    have hhalf : 2 ^ k = 2 * 2 ^ (k - 1) := by rw [← pow_succ', Nat.sub_add_cancel hk]
    have hlt := Nat.mod_lt q (Nat.two_pow_pos k)
    have hcast : ((2 : Int) ^ k) = ((2 ^ k : Nat) : Int) := by norm_cast
    rw [Nat.mul_comm] at hq
    rw [hcast, abs_eq_max_neg]
    rcases lt_trichotomy (q % 2 ^ k) (2 ^ (k - 1)) with h | h | h
    · rw [roundNearestEven_of_lt hk h]
      omega
    · rw [roundNearestEven_of_tie hk h, Nat.add_mul]
      rcases Nat.mod_two_eq_zero_or_one (q / 2 ^ k) with hpar | hpar <;> rw [hpar] <;> omega
    · rw [roundNearestEven_of_gt hk h, Nat.add_mul]
      omega

theorem roundNearestEven_bounds (q k : Nat) :
    q / 2 ^ k ≤ roundNearestEven q k ∧ roundNearestEven q k ≤ q / 2 ^ k + 1 := by
  unfold roundNearestEven
  dsimp only
  split_ifs with hk
  · simp [hk]
  · omega
  · omega

/-- Settles O41: the three cases of the rule, and the distance in each. -/
theorem roundingIsToNearestEven : Obligations.RoundingIsToNearestEven :=
  ⟨roundNearestEven_zero, fun q k hk => ⟨roundNearestEven_of_gt hk, roundNearestEven_of_tie hk,
    roundNearestEven_of_lt hk, roundNearestEven_dist q k⟩⟩

/-- No multiple of 2^k is nearer than the rounded one, and another equally near one leaves it even. -/
theorem roundNearestEven_nearest (q k : Nat) (n : Int) :
    |(roundNearestEven q k : Int) * 2 ^ k - q| ≤ |n * 2 ^ k - q| ∧
      (|(roundNearestEven q k : Int) * 2 ^ k - q| = |n * 2 ^ k - q| →
        n = roundNearestEven q k ∨ roundNearestEven q k % 2 = 0) := by
  obtain ⟨hdist, htie⟩ := roundNearestEven_dist q k
  push_cast at hdist htie
  by_cases hn : n = roundNearestEven q k
  · rw [hn]
    exact ⟨le_rfl, fun _ => .inl rfl⟩
  · have hgap : (2 : Int) ^ k ≤ |(roundNearestEven q k : Int) * 2 ^ k - n * 2 ^ k| := by
      have h1 : (1 : Int) ≤ |roundNearestEven q k - n| := Int.one_le_abs (sub_ne_zero.mpr (Ne.symm hn))
      have hpos : (0 : Int) < 2 ^ k := by positivity
      rw [← sub_mul, abs_mul, abs_of_pos hpos]
      exact le_mul_of_one_le_left hpos.le h1
    have htriangle := abs_sub_le ((roundNearestEven q k : Int) * 2 ^ k) q (n * 2 ^ k)
    rw [abs_sub_comm (q : Int)] at htriangle
    exact ⟨by omega, fun heq => .inr (htie (by omega))⟩

theorem roundNearestEven_nearest_rat (q k : Nat) (n : Int) :
    |(roundNearestEven q k * 2 ^ k : ℚ) - q| ≤ |(n * 2 ^ k : ℚ) - q| ∧
      (|(roundNearestEven q k * 2 ^ k : ℚ) - q| = |(n * 2 ^ k : ℚ) - q| →
        n = roundNearestEven q k ∨ roundNearestEven q k % 2 = 0) := by
  have hcast (j : Int) : |(j * 2 ^ k : ℚ) - q| = (|j * 2 ^ k - q| : Int) := by
    push_cast
    rfl
  have h := roundNearestEven_nearest q k n
  rw [← Int.cast_natCast (roundNearestEven q k), hcast, hcast, Int.cast_le, Int.cast_inj]
  exact h

/-- Doubling the number j times leaves the rounded one as it is when j more bits are dropped. -/
theorem roundNearestEven_mul_two_pow (q k j : Nat) :
    roundNearestEven (q * 2 ^ j) (k + j) = roundNearestEven q k := by
  have hdiv : q * 2 ^ j / 2 ^ (k + j) = q / 2 ^ k := by
    rw [pow_add, Nat.mul_div_mul_right _ _ (Nat.two_pow_pos j)]
  have hmod : q * 2 ^ j % 2 ^ (k + j) = q % 2 ^ k * 2 ^ j := by
    rw [pow_add, Nat.mul_mod_mul_right]
  rcases Nat.eq_zero_or_pos k with rfl | hk
  · rcases Nat.eq_zero_or_pos j with rfl | hj
    · rw [pow_zero, Nat.mul_one]
    · rw [roundNearestEven_of_lt (by omega), hdiv, roundNearestEven_zero, pow_zero, Nat.div_one]
      rw [hmod, pow_zero, Nat.mod_one, Nat.zero_mul]
      positivity
  · have hhalf : 2 ^ (k + j - 1) = 2 ^ (k - 1) * 2 ^ j := by
      rw [← pow_add]
      congr 1
      omega
    have hpos := Nat.two_pow_pos j
    rcases lt_trichotomy (q % 2 ^ k) (2 ^ (k - 1)) with h | h | h
    · rw [roundNearestEven_of_lt (by omega), hdiv, roundNearestEven_of_lt hk h]
      rw [hmod, hhalf]
      exact Nat.mul_lt_mul_of_pos_right h hpos
    · rw [roundNearestEven_of_tie (by omega), hdiv, roundNearestEven_of_tie hk h]
      rw [hmod, hhalf, h]
    · rw [roundNearestEven_of_gt (by omega), hdiv, roundNearestEven_of_gt hk h]
      rw [hmod, hhalf]
      exact Nat.mul_lt_mul_of_pos_right h hpos

/-! ## `float_i2f` (R95) -/

theorem significand_of_le {m p : Nat} (hp : p ≤ 23) : significand m p = m * 2 ^ (23 - p) := if_pos hp

theorem significand_of_gt {m p : Nat} (hp : 23 < p) : significand m p = roundNearestEven m (p - 23) :=
  if_neg (by omega)

/-- The two cases as one: what is scaled up is not rounded, and what is rounded is not scaled up. -/
theorem significand_eq_round (m p : Nat) : significand m p = roundNearestEven (m * 2 ^ (23 - p)) (p - 23) := by
  rcases le_or_gt p 23 with hp | hp
  · rw [significand_of_le hp, Nat.sub_eq_zero_of_le hp, roundNearestEven_zero]
  · rw [significand_of_gt hp, Nat.sub_eq_zero_of_le hp.le, pow_zero, Nat.mul_one]

/-- The significand of a number whose highest 1 bit has index p has 24 bits, or carries to 2^24. -/
theorem significand_bounds {m p : Nat} (h1 : 2 ^ p ≤ m) (h2 : m < 2 ^ (p + 1)) :
    2 ^ 23 ≤ significand m p ∧ significand m p ≤ 2 ^ 24 := by
  have hscale : p + (23 - p) = 23 + (p - 23) := by omega
  have hlow : 2 ^ 23 ≤ m * 2 ^ (23 - p) / 2 ^ (p - 23) := by
    rw [Nat.le_div_iff_mul_le (Nat.two_pow_pos _), ← pow_add, ← hscale, pow_add]
    exact Nat.mul_le_mul_right _ h1
  have hhigh : m * 2 ^ (23 - p) / 2 ^ (p - 23) < 2 ^ 24 := by
    rw [Nat.div_lt_iff_lt_mul (Nat.two_pow_pos _), ← pow_add,
      show 24 + (p - 23) = (p + 1) + (23 - p) by omega, pow_add]
    exact Nat.mul_lt_mul_of_pos_right h2 (Nat.two_pow_pos _)
  obtain ⟨hle, hge⟩ := roundNearestEven_bounds (m * 2 ^ (23 - p)) (p - 23)
  rw [significand_eq_round]
  omega

theorem significand_lt_of_le {m p : Nat} (hp : p ≤ 23) (h2 : m < 2 ^ (p + 1)) : significand m p < 2 ^ 24 := by
  rw [significand_of_le hp, show 24 = (p + 1) + (23 - p) by omega, pow_add]
  exact Nat.mul_lt_mul_of_pos_right h2 (Nat.two_pow_pos _)

theorem natAbs_signed_le (x : Word) : (signed x).natAbs ≤ 2 ^ 31 := by
  have := signed_bounds x
  omega

/-- p of R95 for a word. -/
def leadingBit (x : Word) : Nat := highestBit (signed x).natAbs

/-- Q of R95 for a word. -/
def roundedSignificand (x : Word) : Nat := significand (signed x).natAbs (leadingBit x)

section
variable {x : Word} (hx : signed x ≠ 0)
include hx

/-- R95: the index of the highest 1 bit of the magnitude lies in 0 to 31. -/
theorem leadingBit_spec : 2 ^ leadingBit x ≤ (signed x).natAbs ∧
    (signed x).natAbs < 2 ^ (leadingBit x + 1) ∧ leadingBit x ≤ 31 := by
  have hle := natAbs_signed_le x
  obtain ⟨h1, h2⟩ := highestBit_spec (signed x).natAbs (by omega) (Int.natAbs_pos.mpr hx)
  refine ⟨h1, h2, ?_⟩
  rw [← Nat.pow_le_pow_iff_right (a := 2) (by norm_num)]
  exact h1.trans hle

theorem roundedSignificand_bounds :
    2 ^ 23 ≤ roundedSignificand x ∧ roundedSignificand x ≤ 2 ^ 24 := by
  obtain ⟨h1, h2, -⟩ := leadingBit_spec hx
  exact significand_bounds h1 h2

/-- Only the minimum word has its highest 1 bit at 31, and it is exact, so no carry leaves exponent 158. -/
theorem leadingBit_le_of_carry (h : roundedSignificand x = 2 ^ 24) : leadingBit x ≤ 30 := by
  obtain ⟨h1, -, h31⟩ := leadingBit_spec hx
  by_contra hp
  have hp31 : leadingBit x = 31 := by omega
  have hm : (signed x).natAbs = 2 ^ 31 := le_antisymm (natAbs_signed_le x) (by rwa [hp31] at h1)
  rw [roundedSignificand, hp31, hm] at h
  revert h
  decide

theorem floatI2fValue_eq : floatI2fValue x =
    word ((if signed x < 0 then 1 else 0) * 2 ^ 31 + (127 + leadingBit x) * 2 ^ 23 +
      ((roundedSignificand x : Int) - 2 ^ 23)) :=
  if_neg hx

theorem unsigned_floatI2fValue : unsigned (floatI2fValue x) =
    (decide (signed x < 0)).toNat * 2 ^ 31 + (127 + leadingBit x) * 2 ^ 23 +
      (roundedSignificand x - 2 ^ 23) := by
  obtain ⟨-, -, hp⟩ := leadingBit_spec hx
  obtain ⟨hlow, hhigh⟩ := roundedSignificand_bounds hx
  have hs := Bool.toNat_le (decide (signed x < 0))
  have hsign : (if signed x < 0 then 1 else 0 : Int) = (decide (signed x < 0)).toNat := by
    by_cases h : signed x < 0 <;> simp [h]
  have hcast : ((decide (signed x < 0)).toNat * 2 ^ 31 + (127 + leadingBit x) * 2 ^ 23 +
      ((roundedSignificand x : Int) - 2 ^ 23)) = (((decide (signed x < 0)).toNat * 2 ^ 31 +
      (127 + leadingBit x) * 2 ^ 23 + (roundedSignificand x - 2 ^ 23) : Nat) : Int) := by
    omega
  rw [floatI2fValue_eq hx, hsign, hcast, unsigned_eq_toNat, toNat_word_natCast (by omega)]

/-- The fields of the result; where rounding carries the significand to 2^24, the exponent field is one
more and the mantissa is zero. -/
theorem fields_floatI2fValue : signOf (floatI2fValue x) = decide (signed x < 0) ∧
    ((roundedSignificand x < 2 ^ 24 ∧ expOf (floatI2fValue x) = 127 + leadingBit x ∧
        manOf (floatI2fValue x) = roundedSignificand x - 2 ^ 23) ∨
      (roundedSignificand x = 2 ^ 24 ∧ expOf (floatI2fValue x) = 128 + leadingBit x ∧
        manOf (floatI2fValue x) = 0)) := by
  obtain ⟨-, -, hp⟩ := leadingBit_spec hx
  obtain ⟨hlow, hhigh⟩ := roundedSignificand_bounds hx
  have hu := unsigned_floatI2fValue hx
  rcases hhigh.lt_or_eq with hlt | hcarry
  · obtain ⟨hs, he, hm⟩ := fields_of_unsigned hu (by omega) (by omega)
    exact ⟨hs, .inl ⟨hlt, he, hm⟩⟩
  · obtain ⟨hs, he, hm⟩ := fields_of_unsigned (s := decide (signed x < 0)) (e := 128 + leadingBit x) (m := 0)
      (by rw [hu, hcarry]; omega) (by omega) (by norm_num)
    exact ⟨hs, .inr ⟨hcarry, he, hm⟩⟩

theorem expOf_floatI2fValue_bounds : 127 ≤ expOf (floatI2fValue x) ∧ expOf (floatI2fValue x) ≤ 158 := by
  obtain ⟨-, -, hp⟩ := leadingBit_spec hx
  obtain ⟨-, ⟨-, he, -⟩ | ⟨hcarry, he, -⟩⟩ := fields_floatI2fValue hx
  · omega
  · have := leadingBit_le_of_carry hx hcarry
    omega

theorem classOf_floatI2fValue : classOf (floatI2fValue x) = .normalized := by
  have := expOf_floatI2fValue_bounds hx
  rw [classOf_normalized_iff]
  omega

end

theorem floatI2fValue_of_zero {x : Word} (hx : signed x = 0) : floatI2fValue x = 0#32 := if_pos hx

/-- Settles O42: the formula of R95, the bounds of p and of the significand, and the fields of the result. -/
theorem floatI2fBuildsThePattern : Obligations.FloatI2fBuildsThePattern := by
  refine ⟨decode_floatI2f, fun s => ⟨fun hx => ?_, fun hx => ?_⟩⟩
  · rw [← floatI2fValue_of_zero hx]
    exact exec_of_value rfl rfl
  · obtain ⟨h1, h2, hp⟩ := leadingBit_spec hx
    obtain ⟨hlow, hhigh⟩ := roundedSignificand_bounds hx
    obtain ⟨he1, he2⟩ := expOf_floatI2fValue_bounds hx
    exact ⟨leadingBit s.a, roundedSignificand s.a, floatI2fValue s.a, exec_of_value rfl rfl, h1, h2, hp,
      fun h => ⟨significand_of_le h, significand_lt_of_le h h2⟩, fun h => ⟨significand_of_gt h, hhigh⟩, hlow,
      floatI2fValue_eq hx, he1, he2, classOf_floatI2fValue hx⟩

/-! ## The value of a converted integer (R99) -/

theorem signFactor_mul_natAbs {x : Word} (hx : signed x ≠ 0) :
    signFactor (floatI2fValue x) * (signed x).natAbs = signed x := by
  obtain ⟨hs, -⟩ := fields_floatI2fValue hx
  rw [signFactor, hs]
  by_cases h : signed x < 0
  · rw [decide_eq_true h, if_pos rfl, neg_one_mul, Nat.cast_natAbs, abs_of_neg h, Int.cast_neg, neg_neg]
  · rw [decide_eq_false h, if_neg Bool.false_ne_true, one_mul, Nat.cast_natAbs, abs_of_nonneg (not_lt.mp h)]

/-- The rounded significand in its place, with or without a carry. -/
theorem magnitudeUnits_floatI2fValue {x : Word} (hx : signed x ≠ 0) : magnitudeUnits (floatI2fValue x) =
    roundedSignificand x * 2 ^ (leadingBit x + 126) := by
  obtain ⟨hlow, -⟩ := roundedSignificand_bounds hx
  obtain ⟨-, ⟨-, he, hm⟩ | ⟨hcarry, he, hm⟩⟩ := fields_floatI2fValue hx
  · rw [magnitudeUnits_of_exp_succ (e := leadingBit x + 126) (by omega), hm, Nat.add_sub_cancel' hlow]
  · rw [magnitudeUnits_of_exp_succ (e := leadingBit x + 127) (by omega), hm, hcarry]
    ring

theorem patternValue_floatI2fValue {x : Word} (hx : signed x ≠ 0) : patternValue (floatI2fValue x) =
    .finite (signFactor (floatI2fValue x) * (roundedSignificand x * 2 ^ leadingBit x / 2 ^ 23)) := by
  have hscale : (magnitudeUnits (floatI2fValue x) / 2 ^ 149 : ℚ) =
      roundedSignificand x * 2 ^ leadingBit x / 2 ^ 23 := by
    rw [magnitudeUnits_floatI2fValue hx, Nat.cast_mul, Nat.cast_pow, Nat.cast_ofNat, pow_add]
    ring
  have := expOf_floatI2fValue_bounds hx
  rw [patternValue_of_finite (by omega), hscale]

/-- Up to 2^24 nothing is lost: nothing is dropped below 2^24, and 2^24 itself ends in a zero bit. -/
theorem significand_exact {m p : Nat} (h1 : 2 ^ p ≤ m) (hm : m ≤ 2 ^ 24) :
    significand m p * 2 ^ p = m * 2 ^ 23 := by
  rcases Nat.lt_or_ge 23 p with hp | hp
  · have hp24 : p ≤ 24 := (Nat.pow_le_pow_iff_right (a := 2) (by norm_num)).mp (h1.trans hm)
    obtain rfl : p = 24 := by omega
    obtain rfl : m = 2 ^ 24 := le_antisymm hm h1
    decide
  · rw [significand_of_le hp, Nat.mul_assoc, ← pow_add, Nat.sub_add_cancel hp]

theorem patternValue_floatI2fValue_exact {x : Word} (h : |signed x| ≤ 2 ^ 24) :
    patternValue (floatI2fValue x) = .finite (signed x) := by
  by_cases hx : signed x = 0
  · have hm : magnitudeUnits 0#32 = 0 := by decide
    rw [floatI2fValue_of_zero hx, patternValue_of_finite (by decide), hm, hx]
    simp
  · obtain ⟨h1, -, -⟩ := leadingBit_spec hx
    have hm : (signed x).natAbs ≤ 2 ^ 24 := by
      rw [Int.abs_eq_natAbs] at h
      exact_mod_cast h
    have hexact : (roundedSignificand x * 2 ^ leadingBit x : ℚ) = (signed x).natAbs * 2 ^ 23 := by
      exact_mod_cast significand_exact h1 hm
    rw [patternValue_floatI2fValue hx, hexact, mul_div_cancel_right₀ _ (by norm_num),
      signFactor_mul_natAbs hx]

/-! ## Nearest, ties to even (R94, R95) -/

/-- Among the magnitudes of all patterns the rounded one is nearest: below 2^p all are too small, and from
2^p on they are multiples of the unit to which m was rounded. -/
theorem significand_nearest {m p : Nat} (h1 : 2 ^ p ≤ m) (hp : 23 < p) (u : Word) :
    |(significand m p * 2 ^ p / 2 ^ 23 : ℚ) - m| ≤ |(magnitudeUnits u / 2 ^ 149 : ℚ) - m| ∧
      (|(significand m p * 2 ^ p / 2 ^ 23 : ℚ) - m| = |(magnitudeUnits u / 2 ^ 149 : ℚ) - m| →
        (magnitudeUnits u / 2 ^ 149 : ℚ) = significand m p * 2 ^ p / 2 ^ 23 ∨ significand m p % 2 = 0) := by
  obtain ⟨k, rfl⟩ : ∃ k, p = k + 23 := ⟨p - 23, by omega⟩
  have hround : (significand m (k + 23) * 2 ^ (k + 23) / 2 ^ 23 : ℚ) = roundNearestEven m k * 2 ^ k := by
    rw [significand_of_gt hp, Nat.add_sub_cancel, pow_add]
    ring
  rw [hround, significand_of_gt hp, Nat.add_sub_cancel]
  rcases magnitude_lt_or_multiple u k with hsmall | ⟨n, hn⟩
  · have hm : (2 ^ (k + 23) : ℚ) ≤ m := by exact_mod_cast h1
    have hbase : |(((2 ^ 23 : Nat) : Int) * 2 ^ k : ℚ) - m| = m - 2 ^ (k + 23) := by
      rw [show (((2 ^ 23 : Nat) : Int) * 2 ^ k : ℚ) = 2 ^ (k + 23) by push_cast; ring, abs_sub_comm,
        abs_of_nonneg (by linarith)]
    have hnear := (roundNearestEven_nearest_rat m k (2 ^ 23 : Nat)).1.trans_eq hbase
    have hstrict : |(roundNearestEven m k * 2 ^ k : ℚ) - m| < |(magnitudeUnits u / 2 ^ 149 : ℚ) - m| := by
      calc |(roundNearestEven m k * 2 ^ k : ℚ) - m| ≤ m - 2 ^ (k + 23) := hnear
        _ < -(magnitudeUnits u / 2 ^ 149 - m) := by linarith
        _ ≤ |(magnitudeUnits u / 2 ^ 149 : ℚ) - m| := neg_le_abs _
    exact ⟨hstrict.le, fun heq => absurd heq hstrict.ne⟩
  · obtain ⟨hle, htie⟩ := roundNearestEven_nearest_rat m k n
    rw [hn]
    refine ⟨hle, fun heq => (htie heq).imp_left fun hsame => ?_⟩
    rw [hsame, Int.cast_natCast]

/-- Nearness of two signed numbers comes down to that of their magnitudes, one of them having the sign of the
target. -/
theorem abs_signed_sub_le {s t r v m : ℚ} (hs : |s| = 1) (ht : |t| = 1) (hr : 0 < r) (hv : 0 ≤ v) (hm : 0 < m)
    (h : |r - m| ≤ |v - m|) : |s * r - s * m| ≤ |t * v - s * m| ∧
      (|s * r - s * m| = |t * v - s * m| → |r - m| = |v - m| ∧ (v = r → t * v = s * r)) := by
  have hleft : |s * r - s * m| = |r - m| := by rw [← mul_sub, abs_mul, hs, one_mul]
  have hright : |v - m| ≤ |t * v - s * m| := by
    have hrev := abs_abs_sub_abs_le (t * v) (s * m)
    rwa [abs_mul, abs_mul, hs, ht, one_mul, one_mul, abs_of_nonneg hv, abs_of_pos hm] at hrev
  rw [hleft]
  refine ⟨h.trans hright, fun heq => ⟨h.antisymm (hright.trans_eq heq.symm), ?_⟩⟩
  rintro rfl
  rcases abs_eq_abs.mp (ht.trans hs.symm) with rfl | rfl
  · rfl
  · have hfar : |-s * v - s * m| = v + m := by
      rw [show -s * v - s * m = -(s * (v + m)) by ring, abs_neg, abs_mul, hs, one_mul, abs_of_pos (by linarith)]
    have hlt : |v - m| < v + m := abs_lt.mpr ⟨by linarith, by linarith⟩
    exact absurd (heq.trans hfar) hlt.ne

theorem manOf_floatI2fValue_even {x : Word} (hx : signed x ≠ 0) (h : roundedSignificand x % 2 = 0) :
    manOf (floatI2fValue x) % 2 = 0 := by
  obtain ⟨hlow, -⟩ := roundedSignificand_bounds hx
  obtain ⟨-, ⟨-, -, hm⟩ | ⟨-, -, hm⟩⟩ := fields_floatI2fValue hx <;> omega

/-- Settles O43: an exact result is nearest to itself, and above 2^24 the magnitudes decide by
`significand_nearest`. -/
theorem floatI2fIsNearest : Obligations.FloatI2fIsNearest := by
  intro x
  by_cases hexact : |signed x| ≤ 2 ^ 24
  · refine ⟨signed x, patternValue_floatI2fValue_exact hexact, fun u q' _ => ?_⟩
    rw [sub_self, abs_zero]
    exact ⟨abs_nonneg _, fun heq => .inl (sub_eq_zero.mp (abs_eq_zero.mp heq.symm))⟩
  · have hx : signed x ≠ 0 := by
      rintro hx
      rw [hx] at hexact
      exact hexact (by norm_num)
    obtain ⟨h1, h2, -⟩ := leadingBit_spec hx
    obtain ⟨hlow, -⟩ := roundedSignificand_bounds hx
    have hp : 23 < leadingBit x := by
      rw [Int.abs_eq_natAbs, not_le] at hexact
      have hlt : 2 ^ 24 < 2 ^ (leadingBit x + 1) := (by exact_mod_cast hexact : _ < _).trans h2
      have := (Nat.pow_lt_pow_iff_right (a := 2) (by norm_num)).mp hlt
      omega
    refine ⟨_, patternValue_floatI2fValue hx, fun u q' hq' => ?_⟩
    obtain ⟨-, rfl⟩ := (patternValue_eq_finite_iff u q').mp hq'
    obtain ⟨hle, htie⟩ := significand_nearest h1 hp u
    have hr : (0 : ℚ) < roundedSignificand x * 2 ^ leadingBit x / 2 ^ 23 := by
      have : 0 < roundedSignificand x := by omega
      positivity
    have hm : (0 : ℚ) < (signed x).natAbs := by exact_mod_cast Int.natAbs_pos.mpr hx
    obtain ⟨hnear, hequal⟩ := abs_signed_sub_le (abs_signFactor (floatI2fValue x)) (abs_signFactor u) hr
      (by positivity) hm hle
    rw [← signFactor_mul_natAbs hx]
    refine ⟨hnear, fun heq => ?_⟩
    obtain ⟨hmag, hsame⟩ := hequal heq
    exact (htie hmag).imp hsame (manOf_floatI2fValue_even hx)

/-! ## The datapath of `float_i2f` (R96) -/

/-- The sign bit and the magnitude; for the minimum word that is 2^31, read unsigned. -/
theorem signAndMagnitude_eq (a : Word) :
    signAndMagnitude a = (a &&& 0x80000000#32, word (signed a).natAbs) := by
  have hsign : a &&& 0x80000000#32 ≠ 0#32 ↔ signed a < 0 := by
    rw [ne_eq, ← unsigned_inj, unsigned_and_signBit, signOf_eq_decide_neg]
    by_cases h : signed a < 0 <;> simp [h, unsigned]
  have hmag : (if a &&& 0x80000000#32 ≠ 0#32 then ~~~a + 1#32 else a) = word (signed a).natAbs := by
    rw [← Int.abs_eq_natAbs]
    by_cases h : signed a < 0
    · rw [if_pos (hsign.mpr h), abs_of_neg h, word_neg, word_signed, BitVec.neg_eq_not_add]
    · rw [if_neg (mt hsign.mp h), abs_of_nonneg (not_lt.mp h), word_signed]
  rw [signAndMagnitude, hmag]

theorem unsigned_word_natAbs (a : Word) : unsigned (word (signed a).natAbs) = (signed a).natAbs := by
  have := natAbs_signed_le a
  exact toNat_word_natCast (by omega)

/-- The normalising loop counts the shifts that take the highest 1 bit out of the top. -/
theorem normaliseLoop_eq {rounds : Nat} {v : Word} {p : Nat} (count : Nat) (h1 : 2 ^ p ≤ unsigned v)
    (h2 : unsigned v < 2 ^ (p + 1)) (hp : p ≤ 31) (hr : 32 - p ≤ rounds) :
    normaliseLoop rounds v count = some (count + (32 - p), v <<< (32 - p)) := by
  induction rounds generalizing v p count with
  | zero => omega
  | succ rounds ih =>
    have htop : v.getLsbD 31 = decide (2 ^ 31 ≤ unsigned v) := signOf_eq_decide v
    rw [normaliseLoop_succ, htop]
    rcases hp.lt_or_eq with hlt | rfl
    · have hsmall : unsigned v < 2 ^ 31 := h2.trans_le (Nat.pow_le_pow_right (by norm_num) (by omega))
      have hdouble : unsigned (v <<< 1) = unsigned v * 2 := by
        rw [unsigned_shiftLeft, pow_one, Nat.mod_eq_of_lt (by omega)]
      rw [decide_eq_false (by omega), if_neg Bool.false_ne_true,
        ih (p := p + 1) (count + 1) (by rw [hdouble, pow_succ]; omega) (by rw [hdouble, pow_succ]; omega)
          (by omega) (by omega), ← BitVec.shiftLeft_add, Nat.add_assoc, show 32 - p = 1 + (32 - (p + 1)) by omega]
    · rw [decide_eq_true h1, if_pos rfl]

/-- The shift that normalises drops the highest 1 bit, of weight 2^32, and nothing else. -/
theorem unsigned_normalised {v : Word} {p : Nat} (h1 : 2 ^ p ≤ unsigned v) (h2 : unsigned v < 2 ^ (p + 1))
    (hp : p ≤ 31) : 2 ^ 32 + unsigned (v <<< (32 - p)) = unsigned v * 2 ^ (32 - p) := by
  have hlow : 2 ^ 32 ≤ unsigned v * 2 ^ (32 - p) := by
    calc 2 ^ 32 = 2 ^ p * 2 ^ (32 - p) := by rw [← pow_add]; congr 1; omega
      _ ≤ _ := Nat.mul_le_mul_right _ h1
  have hhigh : unsigned v * 2 ^ (32 - p) < 2 ^ 33 := by
    calc unsigned v * 2 ^ (32 - p) < 2 ^ (p + 1) * 2 ^ (32 - p) :=
          Nat.mul_lt_mul_of_pos_right h2 (Nat.two_pow_pos _)
      _ = 2 ^ 33 := by rw [← pow_add]; congr 1; omega
  rw [unsigned_shiftLeft]
  omega

/-- The test of R96 whether to round up, on the nine bits to drop and the lowest to keep. -/
def roundsUp (n : Nat) : Bool := decide (2 ^ 8 < n % 2 ^ 9 ∨ n % 2 ^ 10 = 0x300)

theorem roundNearestEven_nine (n : Nat) : roundNearestEven n 9 = n / 2 ^ 9 + (roundsUp n).toNat := by
  unfold roundsUp
  rcases lt_trichotomy (n % 2 ^ 9) (2 ^ 8) with h | h | h
  · rw [roundNearestEven_of_lt (by norm_num) h, decide_eq_false (by omega), Bool.toNat_false, Nat.add_zero]
  · rw [roundNearestEven_of_tie (by norm_num) h]
    by_cases hodd : n % 2 ^ 10 = 0x300
    · rw [decide_eq_true (.inr hodd), Bool.toNat_true]
      omega
    · rw [decide_eq_false (by omega), Bool.toNat_false]
      omega
  · rw [roundNearestEven_of_gt (by norm_num) h, decide_eq_true (.inl h), Bool.toNat_true]

/-- Rounding the normalised number by nine bits is the rounding of R95, whatever p. -/
theorem roundNearestEven_normalised {m p : Nat} (hp : p ≤ 31) :
    roundNearestEven (m * 2 ^ (32 - p)) 9 = significand m p := by
  have hscale : m * 2 ^ (32 - p) = m * 2 ^ (23 - p) * 2 ^ (9 - (p - 23)) := by
    rw [Nat.mul_assoc, ← pow_add]
    congr 2
    omega
  rw [significand_eq_round, hscale, ← roundNearestEven_mul_two_pow _ (p - 23) (9 - (p - 23))]
  congr 1
  omega

theorem roundUp_test_eq (v : Word) :
    (decide (unsigned (v &&& 0x1FF#32) > 0x100) || (v &&& 0x3FF#32) == 0x300#32) = roundsUp (unsigned v) := by
  have h9 : unsigned (v &&& 0x1FF#32) = unsigned v % 2 ^ 9 := unsigned_and_lowMask v (k := 9) (by norm_num)
  have h10 : unsigned (v &&& 0x3FF#32) = unsigned v % 2 ^ 10 := unsigned_and_lowMask v (k := 10) (by norm_num)
  have heq : v &&& 0x3FF#32 = 0x300#32 ↔ unsigned v % 2 ^ 10 = 0x300 := by
    rw [← unsigned_inj, h10]
    rfl
  rw [roundsUp, Bool.decide_or, h9, beq_eq_decide, decide_eq_decide.mpr heq]
  rfl

/-- The weight of the leading 1 stands above the bits of the test. -/
theorem roundsUp_two_pow_add (n : Nat) : roundsUp (2 ^ 32 + n) = roundsUp n := by
  have h9 : (2 ^ 32 + n) % 2 ^ 9 = n % 2 ^ 9 := by omega
  have h10 : (2 ^ 32 + n) % 2 ^ 10 = n % 2 ^ 10 := by omega
  rw [roundsUp, h9, h10, roundsUp]

/-- The four summands of R96, the exponent field being 127 + p. -/
theorem assemblePattern_sum (sign v : Word) {p : Nat} (hp : p ≤ 31) :
    assemblePattern sign (32 - p) v = some (sign + word (127 + p : Nat) <<< 23 +
      (v.extractLsb' 9 23).setWidth 32 + boolWord (roundsUp (unsigned v))) := by
  have hexp : (159 - ((32 - p : Nat) : Int)) = (127 + p : Nat) := by omega
  have hshl (w : Word) : shlWord w 23#32 = some (w <<< 23) := shlWord_eq w (by decide)
  rw [assemblePattern, hexp, hshl, roundUp_test_eq]
  rfl

/-- The lines of R96 after the loop, on the normalised magnitude of a word, add up to the sum of R95. -/
theorem assemblePattern_normalised {a : Word} (ha : signed a ≠ 0) :
    assemblePattern (a &&& 0x80000000#32) (32 - leadingBit a)
      (word (signed a).natAbs <<< (32 - leadingBit a)) = some (floatI2fValue a) := by
  obtain ⟨h1, h2, hp⟩ := leadingBit_spec ha
  rw [← unsigned_word_natAbs a] at h1 h2
  have hnorm := unsigned_normalised h1 h2 hp
  rw [assemblePattern_sum _ _ hp]
  generalize word (signed a).natAbs <<< (32 - leadingBit a) = v at hnorm ⊢
  have hround : 2 ^ 23 + unsigned v / 2 ^ 9 + (roundsUp (unsigned v)).toNat = roundedSignificand a := by
    rw [roundedSignificand, ← roundNearestEven_normalised hp, ← unsigned_word_natAbs a, ← hnorm,
      roundNearestEven_nine, roundsUp_two_pow_add]
    omega
  have hexp : unsigned (word (127 + leadingBit a : Nat) <<< 23) = (127 + leadingBit a) * 2 ^ 23 := by
    have hword : unsigned (word (127 + leadingBit a : Nat)) = 127 + leadingBit a :=
      toNat_word_natCast (by omega)
    rw [unsigned_shiftLeft, hword, Nat.mod_eq_of_lt (by omega)]
  have hlt := unsigned_lt (floatI2fValue a)
  refine congrArg some (unsigned_inj.mp ?_)
  rw [unsigned_floatI2fValue ha] at hlt ⊢
  simp only [unsigned_add, unsigned_and_signBit, hexp, unsigned_topBits, unsigned_boolWord,
    signOf_eq_decide_neg]
  omega

theorem floatI2fDatapath_eq (a : Word) : floatI2fDatapath a = some (floatI2fValue a) := by
  by_cases hz : a = 0#32
  · rw [floatI2fValue_of_zero ((signed_eq_zero_iff a).mpr hz)]
    exact if_pos hz
  · have ha : signed a ≠ 0 := mt (signed_eq_zero_iff a).mp hz
    obtain ⟨h1, h2, hp⟩ := leadingBit_spec ha
    rw [← unsigned_word_natAbs a] at h1 h2
    have hloop := normaliseLoop_eq 0 h1 h2 hp (Nat.sub_le 32 _)
    rw [Nat.zero_add] at hloop
    rw [floatI2fDatapath, if_neg hz, signAndMagnitude_eq]
    dsimp only
    rw [hloop]
    exact assemblePattern_normalised ha

theorem floatI2fClosedDatapath_eq (a : Word) : floatI2fClosedDatapath a = some (floatI2fValue a) := by
  by_cases hz : a = 0#32
  · rw [floatI2fValue_of_zero ((signed_eq_zero_iff a).mpr hz)]
    exact if_pos hz
  · have ha : signed a ≠ 0 := mt (signed_eq_zero_iff a).mp hz
    obtain ⟨-, -, hp⟩ := leadingBit_spec ha
    have hamount : (word (31 - (leadingBit a : Int))).toNat = 31 - leadingBit a := by
      rw [show 31 - (leadingBit a : Int) = (31 - leadingBit a : Nat) by omega]
      exact toNat_word_natCast (by omega)
    have hshl : shlWord (word (signed a).natAbs) (word (31 - (leadingBit a : Int))) =
        some (word (signed a).natAbs <<< (31 - leadingBit a)) := by
      rw [shlWord_eq _ (by omega), hamount]
    have hone (w : Word) : shlWord w 1#32 = some (w <<< 1) := shlWord_eq w (by decide)
    rw [floatI2fClosedDatapath, if_neg hz, signAndMagnitude_eq]
    dsimp only
    rw [unsigned_word_natAbs, ← leadingBit, hshl, Option.bind_eq_bind, Option.bind_some, hone,
      Option.bind_some, ← BitVec.shiftLeft_add, show 31 - leadingBit a + 1 = 32 - leadingBit a by omega]
    exact assemblePattern_normalised ha

/-- Settles O56: both forms reach the same normalised word. -/
theorem floatI2fDatapathIsRight : Obligations.FloatI2fDatapathIsRight := fun a =>
  ⟨floatI2fDatapath_eq a, floatI2fClosedDatapath_eq a⟩

/-! ## `float_twice` (R97) -/

/-- A zero or denormalized pattern: the mantissa doubled, which may reach exponent field 1. -/
theorem unsigned_floatTwiceValue_of_exp_zero (fe : TwiceFe) {u : Word} (he : expOf u = 0) :
    unsigned (floatTwiceValue fe u) = (signOf u).toNat * 2 ^ 31 + 2 * manOf u := by
  have hm := manOf_lt u
  have hd : unsigned (word (2 * (unsigned (u &&& 0x007FFFFF#32) : Int))) = 2 * manOf u := by
    rw [unsigned_and_low23]
    exact toNat_word_natCast (n := 2 * manOf u) (by omega)
  rw [floatTwiceValue.eq_def, if_pos he, unsigned_signBit_or u (by omega), hd]

theorem floatTwiceValue_of_exp_max (fe : TwiceFe) {u : Word} (he : expOf u = 0xFF) :
    floatTwiceValue fe u = u := by
  rw [floatTwiceValue.eq_def, if_neg (by omega), if_pos he]

theorem floatTwiceValue_infinity {u : Word} (he : expOf u = 0xFE) :
    floatTwiceValue .infinity u = (u &&& 0x80000000#32) ||| 0x7F800000#32 := by
  rw [floatTwiceValue.eq_def, if_neg (by omega), if_neg (by omega), if_pos he]

theorem floatTwiceValue_carry {u : Word} (h1 : 1 ≤ expOf u) (h2 : expOf u ≤ 0xFE) :
    floatTwiceValue .carry u = u + 0x00800000#32 := by
  rw [floatTwiceValue.eq_def, if_neg (by omega), if_neg (by omega)]
  split <;> rfl

theorem floatTwiceValue_of_normalized (fe : TwiceFe) {u : Word} (h1 : 1 ≤ expOf u) (h2 : expOf u ≤ 0xFD) :
    floatTwiceValue fe u = u + 0x00800000#32 := by
  rw [floatTwiceValue.eq_def, if_neg (by omega), if_neg (by omega), if_neg (by omega)]

/-- Adding 0x00800000 adds one to the exponent field; up to 0xFE no carry leaves the field. -/
theorem fields_add_expUnit {u : Word} (h : expOf u ≤ 0xFE) : signOf (u + 0x00800000#32) = signOf u ∧
    expOf (u + 0x00800000#32) = expOf u + 1 ∧ manOf (u + 0x00800000#32) = manOf u := by
  have hu := unsigned_eq_fields u
  have hm := manOf_lt u
  have hs := Bool.toNat_le (signOf u)
  have hadd : unsigned (u + 0x00800000#32) = (unsigned u + 2 ^ 23) % 2 ^ 32 := unsigned_add u 0x00800000#32
  refine fields_of_unsigned ?_ (by omega) hm
  rw [hadd]
  omega

/-- The infinity of a pattern's sign. -/
theorem fields_signed_infinity (u : Word) : signOf ((u &&& 0x80000000#32) ||| 0x7F800000#32) = signOf u ∧
    expOf ((u &&& 0x80000000#32) ||| 0x7F800000#32) = 0xFF ∧
    manOf ((u &&& 0x80000000#32) ||| 0x7F800000#32) = 0 := by
  have hv : unsigned 0x7F800000#32 = 0xFF * 2 ^ 23 + 0 := by decide
  refine fields_of_unsigned ?_ le_rfl (by norm_num)
  rw [unsigned_signBit_or u (by omega), hv, Nat.add_assoc]

theorem classOf_signed_infinity (u : Word) :
    classOf ((u &&& 0x80000000#32) ||| 0x7F800000#32) = .infinity :=
  (classOf_infinity_iff _).mpr (fields_signed_infinity u).2

/-- With a zero mantissa the carry out of exponent field 0xFE gives the infinity too. -/
theorem add_expUnit_eq_infinity {u : Word} (he : expOf u = 0xFE) (hm : manOf u = 0) :
    u + 0x00800000#32 = (u &&& 0x80000000#32) ||| 0x7F800000#32 := by
  obtain ⟨hs1, he1, hm1⟩ := fields_add_expUnit he.le
  obtain ⟨hs2, he2, hm2⟩ := fields_signed_infinity u
  exact eq_of_fields (hs1.trans hs2.symm) (by rw [he1, he2, he]) (by rw [hm1, hm2, hm])

theorem floatTwiceValue_infinity_eq_carry {u : Word} (h : ¬ (expOf u = 0xFE ∧ manOf u ≠ 0)) :
    floatTwiceValue .infinity u = floatTwiceValue .carry u := by
  by_cases he : expOf u = 0xFE
  · have hm : manOf u = 0 := by
      by_contra hm
      exact h ⟨he, hm⟩
    rw [floatTwiceValue_infinity he, floatTwiceValue_carry (by omega) he.le, add_expUnit_eq_infinity he hm]
  · simp only [floatTwiceValue, if_neg he]

theorem functionalResult_twiceFe {us : Unspec} {i : Instr} (a b : Word) (h : i ≠ .floatTwice) :
    functionalResult ⟨.infinity, us⟩ i a b = functionalResult ⟨.carry, us⟩ i a b := by
  cases i with
  | floatTwice => exact absurd rfl h
  | _ => rfl

/-- Settles O20: only the functional result of `float_twice` reads the parameter, and its two readings
part at exponent field 0xFE, where with a mantissa of zero they meet again. -/
theorem twiceFeDecidesOnlyOneCase : Obligations.TwiceFeDecidesOnlyOneCase := by
  refine ⟨fun us code a b h => ?_, fun a he hm => ⟨?_, ?_⟩⟩
  · have hf : functionalResult ⟨.infinity, us⟩ (decode code) a b =
        functionalResult ⟨.carry, us⟩ (decode code) a b := by
      by_cases hop : decode code = .floatTwice
      · have hcode : code = 0xE#4 := decode_injective (hop.trans decode_floatTwice.symm)
        rw [hop]
        exact congrArg some (floatTwiceValue_infinity_eq_carry fun hcase => h ⟨hcode, hcase⟩)
      · exact functionalResult_twiceFe a b hop
    rw [transactionResult, transactionResult, hf]
  · rw [floatTwiceValue_infinity he]
    exact classOf_signed_infinity a
  · obtain ⟨-, he1, hm1⟩ := fields_add_expUnit he.le
    rw [floatTwiceValue_carry (by omega) he.le, classOf_nan_iff, he1, hm1, he]
    exact ⟨rfl, hm⟩

/-- Settles O44: one clause per arm of R97; below exponent field 0xFE the sum raises the field by one. -/
theorem floatTwiceByExponentField : Obligations.FloatTwiceByExponentField := by
  refine ⟨decode_floatTwice, fun cfg s hop => ?_, fun s => ⟨_, exec_of_value rfl rfl⟩⟩
  refine ⟨floatTwiceValue cfg.twiceFe s.a, ?_, fun hfe => ?_, fun he => ?_, floatTwiceValue_of_exp_max _,
    fun he hfe => ?_, fun he hfe => ?_, fun h1 h2 => ?_⟩
  · have hres : transactionResult cfg s.op s.a s.b = .val (floatTwiceValue cfg.twiceFe s.a) := by
      rw [hop]
      exact transactionResult_of_inDomain rfl rfl
    exact stepWith_of_val hres
  · rw [hfe]
    exact exec_of_value rfl rfl
  · refine ⟨_, if_pos (by decide), ?_⟩
    rw [floatTwiceValue.eq_def, if_pos he, Int.mul_comm]
    rfl
  · rw [hfe, floatTwiceValue_infinity he]
  · rw [hfe, floatTwiceValue_carry (by omega) he.le]
  · obtain ⟨hs, he, hm⟩ := fields_add_expUnit (u := s.a) (by omega)
    rw [floatTwiceValue_of_normalized _ h1 h2]
    exact ⟨rfl, he, hm, hs⟩

/-- Settles O45: exponent field 0xFE under `TWICE_FE = infinity`, the largest finite patterns among
them. -/
theorem floatTwiceOverflowsToInfinity : Obligations.FloatTwiceOverflowsToInfinity := by
  refine ⟨fun s he => ⟨_, exec_of_value rfl rfl, ?_⟩, fun b => ⟨?_, ?_⟩⟩
  · rw [show config.twiceFe = .infinity from rfl, floatTwiceValue_infinity he]
    exact ⟨classOf_signed_infinity s.a, (fields_signed_infinity s.a).1⟩
  · exact (gives_iff_value decode_floatTwice rfl).mpr ⟨rfl, by decide⟩
  · exact (gives_iff_value decode_floatTwice rfl).mpr ⟨rfl, by decide⟩

/-- In the first arm of R98 the shift drops the sign and doubles the mantissa. -/
theorem signBit_or_shiftLeft_one (fe : TwiceFe) {u : Word} (he : expOf u = 0) :
    (u &&& 0x80000000#32) ||| (u <<< 1) = floatTwiceValue fe u := by
  have hm := manOf_lt u
  have hu := unsigned_eq_fields u
  have hshl : unsigned (u <<< 1) = 2 * manOf u := by
    rw [unsigned_shiftLeft]
    cases hs : signOf u <;> rw [hs] at hu <;> simp only [Bool.toNat_true, Bool.toNat_false] at hu <;> omega
  rw [← unsigned_inj, unsigned_signBit_or u (by omega), hshl, unsigned_floatTwiceValue_of_exp_zero fe he]

theorem floatTwiceDatapath_eq (fe : TwiceFe) (u : Word) :
    floatTwiceDatapath fe u = some (floatTwiceValue fe u) := by
  have hfield (c : BitVec 8) : u.extractLsb' 23 8 = c ↔ expOf u = c.toNat := BitVec.toNat_inj.symm
  have hshl : shlWord u 1#32 = some (u <<< 1) := shlWord_eq u (by decide)
  simp only [floatTwiceDatapath, hfield, hshl, Option.bind_eq_bind, Option.bind_some]
  split_ifs with h0 hFF hFE
  · rw [signBit_or_shiftLeft_one fe h0]
  · rw [floatTwiceValue_of_exp_max fe hFF]
  · obtain ⟨he, rfl⟩ := hFE
    rw [floatTwiceValue_infinity he]
  · have he : expOf u ≤ 0xFE := by
      have := expOf_le u
      change expOf u ≠ 0xFF at hFF
      omega
    cases fe with
    | carry => rw [floatTwiceValue_carry (Nat.one_le_iff_ne_zero.mpr h0) he]
    | infinity =>
      have : expOf u ≠ 0xFE := fun h => hFE ⟨h, rfl⟩
      rw [floatTwiceValue_of_normalized _ (Nat.one_le_iff_ne_zero.mpr h0) (by omega)]

/-! ## Doubling (R97) in fields and values -/

/-- The doubled mantissa of a zero or denormalized pattern, in exponent field 0 or carried into field 1. -/
theorem fields_floatTwiceValue_of_exp_zero (fe : TwiceFe) {u : Word} (he : expOf u = 0) :
    signOf (floatTwiceValue fe u) = signOf u ∧
      ((expOf (floatTwiceValue fe u) = 0 ∧ manOf (floatTwiceValue fe u) = 2 * manOf u) ∨
        (expOf (floatTwiceValue fe u) = 1 ∧ 2 ^ 23 + manOf (floatTwiceValue fe u) = 2 * manOf u)) := by
  have hm := manOf_lt u
  have hu := unsigned_floatTwiceValue_of_exp_zero fe he
  rcases Nat.lt_or_ge (manOf u) (2 ^ 22) with h | h
  · obtain ⟨hs, he', hm'⟩ := fields_of_unsigned (s := signOf u) (e := 0) (m := 2 * manOf u)
      (hu.trans (by omega)) (by norm_num) (by omega)
    exact ⟨hs, .inl ⟨he', hm'⟩⟩
  · obtain ⟨hs, he', hm'⟩ := fields_of_unsigned (s := signOf u) (e := 1) (m := 2 * manOf u - 2 ^ 23)
      (hu.trans (by omega)) (by norm_num) (by omega)
    exact ⟨hs, .inr ⟨he', by omega⟩⟩

/-- Up to exponent field 0xFD doubling keeps the sign and doubles the magnitude, and the result is finite. -/
theorem floatTwiceValue_doubles (fe : TwiceFe) {u : Word} (h : expOf u ≤ 0xFD) :
    signOf (floatTwiceValue fe u) = signOf u ∧ expOf (floatTwiceValue fe u) ≤ 0xFE ∧
      magnitudeUnits (floatTwiceValue fe u) = 2 * magnitudeUnits u := by
  rcases he : expOf u with _ | e
  · rw [magnitudeUnits_of_exp_zero he]
    obtain ⟨hs, ⟨he', hm⟩ | ⟨he', hm⟩⟩ := fields_floatTwiceValue_of_exp_zero fe he
    · exact ⟨hs, by omega, (magnitudeUnits_of_exp_zero he').trans hm⟩
    · refine ⟨hs, by omega, (magnitudeUnits_of_exp_succ (e := 0) he').trans ?_⟩
      rw [hm, pow_zero, Nat.mul_one]
  · obtain ⟨hs, he', hm⟩ := fields_add_expUnit (u := u) (by omega)
    rw [floatTwiceValue_of_normalized fe (by omega) h]
    refine ⟨hs, by omega, ?_⟩
    rw [magnitudeUnits_of_exp_succ he, magnitudeUnits_of_exp_succ (he'.trans (congrArg (· + 1) he)), hm]
    ring

theorem floatTwiceValue_of_zero (fe : TwiceFe) {u : Word} (h : classOf u = .zero) :
    floatTwiceValue fe u = u := by
  obtain ⟨he, hm⟩ := (classOf_zero_iff u).mp h
  rw [← unsigned_inj, unsigned_floatTwiceValue_of_exp_zero fe he, unsigned_eq_fields u, he, hm, Nat.zero_mul]

/-! ## NaN patterns (R90) -/

/-- Settles O46: a NaN goes through both operations; negation keeps the class, doubling stays finite up to
exponent field 0xFD and makes an infinity at 0xFE, and a conversion gives zero or a normalized pattern. -/
theorem noFloatOperationMakesANaN : Obligations.NoFloatOperationMakesANaN := by
  refine ⟨fun u fe h => ⟨floatNegValue_of_nan h, ?_⟩, fun u h => ⟨?_, ?_⟩, fun x => ?_⟩
  · exact floatTwiceValue_of_exp_max fe ((classOf_nan_iff u).mp h).1
  · rwa [classOf_floatNegValue]
  · rcases Nat.lt_trichotomy (expOf u) 0xFE with he | he | he
    · obtain ⟨-, he', -⟩ := floatTwiceValue_doubles .infinity (Nat.le_of_lt_succ he)
      rw [ne_eq, classOf_nan_iff]
      omega
    · rw [floatTwiceValue_infinity he, classOf_signed_infinity]
      nofun
    · rwa [floatTwiceValue_of_exp_max .infinity (le_antisymm (expOf_le u) he)]
  · by_cases hx : signed x = 0
    · rw [floatI2fValue_of_zero hx]
      decide
    · rw [classOf_floatI2fValue hx]
      nofun

/-! ## Values of negated and doubled patterns (R99) -/

theorem floatNegValue_of_exp_le {u : Word} (h : expOf u ≤ 0xFE) : floatNegValue u = u ^^^ 0x80000000#32 := by
  refine floatNegValue_of_not_nan ?_
  rw [ne_eq, classOf_nan_iff]
  omega

theorem signFactor_of_sign_not {u v : Word} (h : signOf v = !signOf u) : signFactor v = -signFactor u := by
  rw [signFactor, signFactor, h]
  cases signOf u <;> simp

theorem magnitudeUnits_of_fields {u v : Word} (he : expOf v = expOf u) (hm : manOf v = manOf u) :
    magnitudeUnits v = magnitudeUnits u := by
  rw [magnitudeUnits, magnitudeUnits, he, hm]

theorem patternValue_floatNegValue {u : Word} {q : ℚ} (h : patternValue u = .finite q) :
    patternValue (floatNegValue u) = .finite (-q) := by
  obtain ⟨he, rfl⟩ := (patternValue_eq_finite_iff u q).mp h
  obtain ⟨hs, he', hm⟩ := fields_xor_signBit u
  rw [floatNegValue_of_exp_le he, patternValue_of_finite (by omega), signFactor_of_sign_not hs,
    magnitudeUnits_of_fields he' hm, neg_mul]

theorem patternValue_floatNegValue_infinity {u : Word} {negative : Bool}
    (h : patternValue u = .infinity negative) : patternValue (floatNegValue u) = .infinity (!negative) := by
  obtain ⟨hc, rfl⟩ := (patternValue_eq_infinity_iff u negative).mp h
  have hn : floatNegValue u = u ^^^ 0x80000000#32 := floatNegValue_of_not_nan (by rw [hc]; nofun)
  rw [patternValue_eq_infinity_iff, classOf_floatNegValue, hn]
  exact ⟨hc, (fields_xor_signBit u).1⟩

theorem patternValue_floatTwiceValue (fe : TwiceFe) {u : Word} {q : ℚ} (he : expOf u ≤ 0xFD)
    (h : patternValue u = .finite q) : patternValue (floatTwiceValue fe u) = .finite (2 * q) := by
  obtain ⟨-, rfl⟩ := (patternValue_eq_finite_iff u q).mp h
  obtain ⟨hs, he', hm⟩ := floatTwiceValue_doubles fe he
  have hsign : signFactor (floatTwiceValue fe u) = signFactor u := by rw [signFactor, signFactor, hs]
  rw [patternValue_of_finite he', hm, hsign, Nat.cast_mul, Nat.cast_ofNat]
  congr 1
  ring

/-- Settles O47: the values of the three results, and the patterns that doubling leaves alone. -/
theorem floatOperationsMeanWhatTheySay : Obligations.FloatOperationsMeanWhatTheySay := by
  refine ⟨fun x h => patternValue_floatI2fValue_exact h, floatNegValue_floatNegValue,
    fun u q h => patternValue_floatNegValue h, fun u negative h => patternValue_floatNegValue_infinity h,
    fun u fe q he h => patternValue_floatTwiceValue fe he h, fun u fe h => ?_⟩
  rcases h with h | h | h
  · exact floatTwiceValue_of_zero fe h
  · exact floatTwiceValue_of_exp_max fe ((classOf_infinity_iff u).mp h).1
  · exact floatTwiceValue_of_exp_max fe ((classOf_nan_iff u).mp h).1

/-! ## Every datapath of the family (R100) -/

/-- Settles O58: the three datapaths in turn. -/
theorem floatDatapathsMeetTheirResults : Obligations.FloatDatapathsMeetTheirResults := by
  intro cfg i a b hfam
  cases i with
  | floatNeg => exact floatNegDatapath_eq a
  | floatI2f => exact floatI2fDatapath_eq a
  | floatTwice => exact floatTwiceDatapath_eq cfg.twiceFe a
  | _ => cases hfam

end Sys2Proof.Machine
end

section
/-! PROOFS. The statements of 60_exceptions.md: nothing faults, and a transaction comes to a completion or, in
a block built to refuse, to the refusal of an `Unspecified` result (R102, R103). -/

namespace Sys2Proof.Machine

/-! ## What an answer and a transaction come to -/

/-- The two things an answer can be, whatever the parameters. -/
theorem respond_cases (cfg : Config) (res : Result) (s : State) :
    (∃ t, respond cfg res s = .next t) ∨
      (cfg.unspec = .refuse ∧ res = .unspecified ∧ respond cfg res s = .refused .unspecifiedResult) := by
  cases res with
  | val w => exact .inl ⟨s.setResult w, respond_val cfg w s⟩
  | unspecified =>
    cases hcfg : cfg.unspec with
    | draw => exact .inl ⟨s.takeDraw, by simp only [respond, hcfg]⟩
    | refuse => exact .inr ⟨rfl, rfl, respond_refuse s hcfg⟩

/-- An operation completes inside its domain and outside it. -/
theorem exec_completes (i : Instr) (s : State) : ∃ t, exec i s = .next t := by
  cases hd : inDomain i s.a s.b with
  | true =>
    obtain ⟨w, -, hexec⟩ := exec_of_inDomain hd
    exact ⟨s.setResult w, hexec⟩
  | false => exact ⟨s.takeDraw, exec_of_outside hd⟩

theorem step_completes (s : State) : ∃ t, step s = .next t := exec_completes (decode s.op) s

/-! ## Where a script stops -/

/-- A script that erred did so at its first line, which presents no transaction, or in the lines after a first
step that completed. -/
theorem runScript_cons_error {l : Line} {ls : List Line} {s : State} {ws : List Word} {e : ScriptStop}
    (h : runScript (l :: ls) s ws = .error e) :
    (l.transaction ws = none ∧ e = .badLine ws.length) ∨
      ∃ tr s', l.transaction ws = some tr ∧ step (s.drive tr.op tr.a tr.b) = .next s' ∧
        runScript ls s' (ws ++ [s'.r]) = .error e := by
  cases hl : l.transaction ws with
  | none =>
    simp only [runScript, hl] at h
    exact .inl ⟨rfl, (Except.error.inj h).symm⟩
  | some tr =>
    obtain ⟨s', hstep⟩ := step_completes (s.drive tr.op tr.a tr.b)
    simp only [runScript, hl, hstep] at h
    exact .inr ⟨tr, s', rfl, hstep, h⟩

/-- A script errs only at one of its own lines, the words collected so far being the lines before it. -/
theorem runScript_error {ls : List Line} {s : State} {ws : List Word} {e : ScriptStop}
    (h : runScript ls s ws = .error e) :
    ∃ k, e = .badLine k ∧ ws.length ≤ k ∧ k < ws.length + ls.length := by
  induction ls generalizing s ws with
  | nil => cases h
  | cons l ls ih =>
    obtain ⟨-, rfl⟩ | ⟨_, s', -, -, hrest⟩ := runScript_cons_error h
    · exact ⟨ws.length, rfl, le_rfl, Nat.lt_add_of_pos_right (Nat.succ_pos ls.length)⟩
    · obtain ⟨k, rfl, hle, hlt⟩ := ih hrest
      simp only [List.length_append, List.length_singleton] at hle hlt
      exact ⟨k, rfl, by omega, by rw [List.length_cons]; omega⟩

/-- Settles O6: under any parameters a step is `respond` to the transaction's result; the machine itself draws,
so its operations complete and its scripts stop at their own lines. -/
theorem outcomesAreCompletionsOrTheRefusal : Obligations.OutcomesAreCompletionsOrTheRefusal :=
  ⟨fun cfg s => respond_cases cfg (transactionResult cfg s.op s.a s.b) s,
    fun i s => .inl (exec_completes i s), fun _ _ _ _ h => .inl (runScript_error h)⟩

/-- Settles O7: `exec_completes`, and a script stops at a line that presents no transaction. -/
theorem everyTransactionCompletes : Obligations.EveryTransactionCompletes := by
  refine ⟨exec_completes, step_completes, fun ls s ws e h => ?_⟩
  obtain ⟨k, hk, -, -⟩ := runScript_error h
  exact ⟨k, hk⟩

end Sys2Proof.Machine
end

section
/-! PROOFS. The statements of 70_reset_and_hazards.md: what a script presented before disturbs no later
transaction (R119). -/

namespace Sys2Proof.Machine

/-! ## Scripts one after the other (R53, R119) -/

/-- A line whose step completes collects the word on `r`, and the rest of the script goes on from there. -/
theorem runScript_cons_of_step {l : Line} {ws : List Word} {tr : Transaction} {s s' : State} (rest : List Line)
    (hl : l.transaction ws = some tr) (hstep : step (s.drive tr.op tr.a tr.b) = .next s') :
    runScript (l :: rest) s ws = runScript rest s' (ws ++ [s'.r]) := by
  simp only [runScript, hl, hstep]

/-- Lines put after a script that ran to its end run from where that script left off. -/
theorem runScript_append {ls : List Line} {s t : State} {ws ws' : List Word} (rest : List Line)
    (h : runScript ls s ws = .ok (t, ws')) : runScript (ls ++ rest) s ws = runScript rest t ws' := by
  induction ls generalizing s ws with
  | nil =>
    obtain ⟨rfl, rfl⟩ := Prod.mk.inj (Except.ok.inj h)
    rfl
  | cons l ls ih =>
    obtain ⟨tr, s', hl, hstep, hrest⟩ := runScript_cons_ok h
    rw [List.cons_append, runScript_cons_of_step (ls ++ rest) hl hstep]
    exact ih hrest

/-- Settles O15: the last line runs from wherever the script before it ended (`runScript_append`), and from
every state it collects its own word (`runScript_cons_of_val`). -/
theorem earlierTransactionsDisturbNothing : Obligations.EarlierTransactionsDisturbNothing := by
  intro ls l s t ws tr w hrun hl hw
  refine ⟨(t.drive tr.op tr.a tr.b).setResult w, ?_, rfl, rfl, rfl, rfl⟩
  rw [runScript_append [l] hrun, runScript_cons_of_val [] t hl hw, runScript]

end Sys2Proof.Machine
end
